-- ==== Sys2Proof/Word.lean ====
section
/-! DEFINITION. The words of the block: bytes, nibbles, and single bits as Booleans (spec/00_scope.md R7). -/

namespace Sys2Proof

/-- An 8-bit value: an assembled byte, a command byte. -/
abbrev Byte := BitVec 8

/-- A quad nibble (R64). -/
abbrev Nibble := BitVec 4

/-- The six lines of a sample, R56: bit 0 CS, 1 SCLK, 2 IO0, 3 IO1, 4 IO2, 5 IO3. -/
abbrev Lines := BitVec 6

/-- The event vector of R58. -/
abbrev EventVector := BitVec 7

/-- Bit i of a word, bit 0 the least significant (R7). -/
abbrev bitAt {w : Nat} (v : BitVec w) (i : Nat) : Bool := v.getLsbD i

/-- One bit as a word of width 1. -/
abbrev bit (b : Bool) : BitVec 1 := BitVec.ofBool b

end Sys2Proof
end

