-- ==== Sys2Proof/Config.lean ====
section
/-! DEFINITION. What an implementation fixes: the configuration record (spec/10_state.md R13 to R20), the build parameters
(spec/00_scope.md R6), and the free values (constants without a body). -/

namespace Sys2Proof

/-- A DATA_TABLE descriptor (R6, R23). The lane width is a number because a build may ask for one that R155 refuses. -/
structure DataEntry where
  name : String
  lane : Nat
  overhead : Nat
  deriving DecidableEq, Repr

/-- A TOGGLE_TABLE descriptor (R6, R23). The new width is a number without a stated size (R7), because a build may ask for one
that R155 refuses. -/
structure ToggleEntry where
  name : String
  newAw : Nat
  deriving DecidableEq, Repr

/-- The static command tables, SES.2 of R23: maps from command byte to descriptor, the first entry of a key counting.
`quad` gives the dummy-cycle count in quad clock ticks. `ex4bOpcode` is EX4B_OPCODE of R6. -/
structure Tables where
  data : List (Byte × DataEntry)
  quad : List (Byte × Nat)
  toggle : List (Byte × ToggleEntry)
  ctrl : List (Byte × String)
  ex4bOpcode : Byte
  deriving DecidableEq, Repr

/-- The default tables of R6 and R23, for a chosen exit-4-byte command byte (R6: default 0xE9, K3). -/
def Tables.withExit (op : Byte) : Tables where
  data := [(0x03#8, ⟨"Read", 1, 0⟩), (0x0B#8, ⟨"Fast Read", 1, 1⟩), (0xEB#8, ⟨"Quad Read", 4, 2⟩)]
  quad := [(0xEB#8, 4)]
  toggle := [(0xB7#8, ⟨"Enable 4 Byte Address", 4⟩), (op, ⟨"Exit 4 Byte Address", 3⟩)]
  ctrl := []
  ex4bOpcode := op

/-- The default tables. -/
def Tables.standard : Tables := Tables.withExit 0xE9#8

/-- TS_W, POS_W and CNT_W of R6; `none` is an unbounded natural. -/
structure Widths where
  tsW : Option Nat
  posW : Option Nat
  cntW : Option Nat
  deriving DecidableEq, Repr

/-- The build: what is fixed before reset and kept by it. -/
structure Build where
  tables : Tables
  widths : Widths
  deriving DecidableEq, Repr

/-- The default build: the tables of R23, unbounded counters (R6). -/
def Build.standard : Build := ⟨Tables.standard, ⟨none, none, none⟩⟩

/-- The configuration, CFG.0 to CFG.8 (R13 to R20). -/
structure Configuration where
  csActive : Bool
  cpol : Bool
  cpha : Bool
  bitOrder : Bool
  wordSize : BitVec 8
  awInit : BitVec 3
  minAddr : BitVec 32
  maxAddr : BitVec 32
  hasQuad : Bool
  deriving DecidableEq, Repr

/-- The defaults of R4. -/
def Configuration.standard : Configuration where
  csActive := false
  cpol := false
  cpha := false
  bitOrder := false
  wordSize := 8#8
  awInit := 3#3
  minAddr := 0x00000000#32
  maxAddr := 0xFFFFFFFF#32
  hasQuad := true

namespace Config

/-- A free value (log 2): what a read finds where the spec gives the read no value (an `empty` entry, R96; the MOSI byte
at position 7 when no byte completed there, R105 "done is always 1 here"). The argument is the counter `State.free`. -/
opaque freeByte : Nat → Byte

/-- ERROR_TEXT of R6, OPEN (D24): the "generic failure message" (log 11). -/
opaque errorText : String

/-- The text of a data-command message that R145 leaves open (I3): a count of 0 or less, or an end address that is
negative or does not fit `2 * aw` digits. The arguments are the command's name, aw, the start address, the count and the
end address; that the text depends on these alone is the model's choice, since I3 allows any text (DESIGN CHOICE, log 12). -/
opaque openText : String → Nat → BitVec 32 → Int → Int → String

end Config

end Sys2Proof
end

