-- ==== Sys2Proof/Syntax.lean ====
section
/-! DEFINITION. The instructions: one constructor for each row of spec/opcode_table.json. R3 of spec/00_scope.md: the block's
instructions are its per-sample events and the flash command bytes. An operand of a constructor is what the row's encoding
leaves open: the don't-care bits of an event pattern (R59), or the byte itself where the row matches many. -/

namespace Sys2Proof

inductive Instr
  /-- READ, R119. -/
  | read
  /-- FAST_READ, R120. -/
  | fastRead
  /-- QUAD_READ, R121. -/
  | quadRead
  /-- EN4B, R129. -/
  | en4b
  /-- EX4B, R130; its byte is the build parameter EX4B_OPCODE. -/
  | ex4b
  /-- CONTROL, R132: a key of CTRL_TABLE. -/
  | control (c : Byte)
  /-- UNRECOGNIZED, R133: a key of no table. -/
  | unrecognized (c : Byte)
  /-- EV_EOS, R85: pattern 1xxxxxx. -/
  | evEos (x : BitVec 6)
  /-- EV_PRIME, R77: pattern 00xxxxx. -/
  | evPrime (x : BitVec 5)
  /-- EV_CS_ASSERT, R80: pattern 01001xx, the operand is {s_prev, s_now}. -/
  | evCsAssert (clk : BitVec 2)
  /-- BEGIN_FRESH, R102: EV_CS_ASSERT with cont = 0. -/
  | beginFresh (clk : BitVec 2)
  /-- BEGIN_CONT, R103: EV_CS_ASSERT with cont = 1. -/
  | beginCont (clk : BitVec 2)
  /-- EV_CS_DEASSERT, R81: pattern 01110xx. -/
  | evCsDeassert (clk : BitVec 2)
  /-- EV_CLK, R82: 0111101. -/
  | evClk
  /-- SINGLE_EDGE, R88: EV_CLK on the SINGLE path. -/
  | singleEdge
  /-- QUAD_HIGH, R91: EV_CLK on the QUAD path with qhalf = 0. -/
  | quadHigh
  /-- QUAD_LOW, R92: EV_CLK on the QUAD path with qhalf = 1. -/
  | quadLow
  /-- EV_NONE, R84: every vector no earlier row matches. -/
  | evNone (ev : EventVector)
  deriving DecidableEq, Repr

end Sys2Proof
end

