-- ==== Sys2Proof/WellFormed.lean ====
section
/-! DEFINITION. Which instruction terms the encodings of spec/30_encoding.md can express, for the tables of a build. -/

namespace Sys2Proof

/-- R59, written bit by bit: some row before EV_NONE matches the vector. The bits are eos, primed, open, csa_prev, csa_now,
s_prev, s_now from bit 6 down. -/
def matchesEarlierRow (ev : EventVector) : Bool :=
  bitAt ev 6
    || !bitAt ev 5
    || (!bitAt ev 4 && !bitAt ev 3 && bitAt ev 2)
    || (bitAt ev 4 && bitAt ev 3 && !bitAt ev 2)
    || (bitAt ev 4 && bitAt ev 3 && bitAt ev 2 && !bitAt ev 1 && bitAt ev 0)

/-- The DATA_TABLE holds the row's descriptor under the row's byte. -/
def Tables.hasDataRow (t : Tables) (c : Byte) (lane overhead : Nat) : Bool :=
  match t.data.lookup c with
  | some d => d.lane == lane && d.overhead == overhead
  | none => false

/-- The TOGGLE_TABLE holds the row's new width under the byte, and no DATA_TABLE entry comes first (R62). -/
def Tables.hasToggleRow (t : Tables) (c : Byte) (w : Nat) : Bool :=
  (t.data.lookup c).isNone &&
    match t.toggle.lookup c with
    | some g => g.newAw == w
    | none => false

/-- Well-formed instructions: those that some word of the build's encoding stands for. -/
def Instr.wellFormed (t : Tables) : Instr → Bool
  | .read => t.hasDataRow 0x03#8 1 0
  | .fastRead => t.hasDataRow 0x0B#8 1 1
  | .quadRead => t.hasDataRow 0xEB#8 4 2
  | .en4b => t.hasToggleRow 0xB7#8 4
  | .ex4b => t.hasToggleRow t.ex4bOpcode 3
  | .control c => (t.data.lookup c).isNone && (t.toggle.lookup c).isNone && (t.ctrl.lookup c).isSome
  | .unrecognized c => (t.data.lookup c).isNone && (t.toggle.lookup c).isNone && (t.ctrl.lookup c).isNone
  | .evNone ev => !matchesEarlierRow ev
  | .evEos _ => true
  | .evPrime _ => true
  | .evCsAssert _ => true
  | .beginFresh _ => true
  | .beginCont _ => true
  | .evCsDeassert _ => true
  | .evClk => true
  | .singleEdge => true
  | .quadHigh => true
  | .quadLow => true

end Sys2Proof
end

