-- ==== Sys2Proof/Decode.lean ====
section
/-! DEFINITION. Decoding and encoding (spec/30_encoding.md R58 to R62). A code word is one of three things: a command byte,
read through the build's tables; an event vector, read through the rows of R59; or an event vector together with the state
bits that split its class (R59 last paragraph, R60). -/

namespace Sys2Proof

/-- The state bits, outside the vector, that split EV_CS_ASSERT and EV_CLK. -/
inductive Selector
  /-- SES.3 cont, for EV_CS_ASSERT. -/
  | cont (b : Bool)
  /-- path = SINGLE, for EV_CLK. -/
  | single
  /-- path = QUAD with qhalf, for EV_CLK. -/
  | quad (half : Bool)
  deriving DecidableEq, Repr

/-- A code word. -/
inductive Code
  | command (c : Byte)
  | vector (ev : EventVector)
  | split (ev : EventVector) (sel : Selector)
  deriving DecidableEq, Repr

/-- Why a code word has no row of the opcode table. -/
inductive DecodeError
  /-- A DATA_TABLE or TOGGLE_TABLE entry that a build adds (R63): the interpreter runs it (R134), the opcode table has no
  row for it. -/
  | entryWithoutRow (c : Byte)
  /-- The selector does not belong to the vector's class. -/
  | noSuchSplit (ev : EventVector) (sel : Selector)
  deriving DecidableEq, Repr

/-- The kind of a command byte, R62. -/
inductive CommandKind
  | data (d : DataEntry)
  | toggle (g : ToggleEntry)
  | control (name : String)
  | unrecognized
  deriving DecidableEq, Repr

/-- The lookup order of R62: DATA, TOGGLE, CTRL, then unrecognised. -/
def Tables.kindOf (t : Tables) (c : Byte) : CommandKind :=
  match t.data.lookup c with
  | some d => .data d
  | none =>
    match t.toggle.lookup c with
    | some g => .toggle g
    | none =>
      match t.ctrl.lookup c with
      | some n => .control n
      | none => .unrecognized

/-- A row of the table of R59. -/
structure EventRow where
  mtch : EventVector
  mask : EventVector
  deriving DecidableEq, Repr

/-- The vector matches the row. -/
def EventRow.matches (r : EventRow) (ev : EventVector) : Bool := ev &&& r.mask == r.mtch

/-- R59 priority 1, 1xxxxxx. -/
def rowEos : EventRow := ⟨0x40#7, 0x40#7⟩
/-- R59 priority 2, 00xxxxx. -/
def rowPrime : EventRow := ⟨0x00#7, 0x60#7⟩
/-- R59 priority 3, 01001xx. -/
def rowCsAssert : EventRow := ⟨0x24#7, 0x7C#7⟩
/-- R59 priority 4, 01110xx. -/
def rowCsDeassert : EventRow := ⟨0x38#7, 0x7C#7⟩
/-- R59 priority 5, 0111101. -/
def rowClk : EventRow := ⟨0x3D#7, 0x7F#7⟩

/-- The event class of a vector: the first row of R59 that matches. -/
def decodeVector (ev : EventVector) : Instr :=
  if rowEos.matches ev then .evEos (ev.extractLsb' 0 6)
  else if rowPrime.matches ev then .evPrime (ev.extractLsb' 0 5)
  else if rowCsAssert.matches ev then .evCsAssert (ev.extractLsb' 0 2)
  else if rowCsDeassert.matches ev then .evCsDeassert (ev.extractLsb' 0 2)
  else if rowClk.matches ev then .evClk
  else .evNone ev

/-- The command rows of the opcode table (R119 to R121, R129, R130, R132, R133) for the descriptor that R62 finds. -/
def decodeCommand (t : Tables) (c : Byte) : Except DecodeError Instr :=
  match t.kindOf c with
  | .data d =>
    if c = 0x03#8 ∧ d.lane = 1 ∧ d.overhead = 0 then .ok .read
    else if c = 0x0B#8 ∧ d.lane = 1 ∧ d.overhead = 1 then .ok .fastRead
    else if c = 0xEB#8 ∧ d.lane = 4 ∧ d.overhead = 2 then .ok .quadRead
    else .error (.entryWithoutRow c)
  | .toggle g =>
    if c = 0xB7#8 ∧ g.newAw = 4 then .ok .en4b
    else if c = t.ex4bOpcode ∧ g.newAw = 3 then .ok .ex4b
    else .error (.entryWithoutRow c)
  | .control _ => .ok (.control c)
  | .unrecognized => .ok (.unrecognized c)

/-- The split of a class by the state bits outside the vector (R59, R60). -/
def decodeSplit (ev : EventVector) (sel : Selector) : Except DecodeError Instr :=
  match decodeVector ev, sel with
  | .evCsAssert clk, .cont false => .ok (.beginFresh clk)
  | .evCsAssert clk, .cont true => .ok (.beginCont clk)
  | .evClk, .single => .ok .singleEdge
  | .evClk, .quad false => .ok .quadHigh
  | .evClk, .quad true => .ok .quadLow
  | _, _ => .error (.noSuchSplit ev sel)

/-- The decoder. -/
def decode (t : Tables) : Code → Except DecodeError Instr
  | .command c => decodeCommand t c
  | .vector ev => .ok (decodeVector ev)
  | .split ev sel => decodeSplit ev sel

/-- The encoder: the code word of an instruction, from the rows of the opcode table. -/
def encode (t : Tables) : Instr → Code
  | .read => .command 0x03#8
  | .fastRead => .command 0x0B#8
  | .quadRead => .command 0xEB#8
  | .en4b => .command 0xB7#8
  | .ex4b => .command t.ex4bOpcode
  | .control c => .command c
  | .unrecognized c => .command c
  | .evEos x => .vector (0b1#1 ++ x)
  | .evPrime x => .vector (0b00#2 ++ x)
  | .evCsAssert clk => .vector (0b01001#5 ++ clk)
  | .beginFresh clk => .split (0b01001#5 ++ clk) (.cont false)
  | .beginCont clk => .split (0b01001#5 ++ clk) (.cont true)
  | .evCsDeassert clk => .vector (0b01110#5 ++ clk)
  | .evClk => .vector 0b0111101#7
  | .singleEdge => .split 0b0111101#7 .single
  | .quadHigh => .split 0b0111101#7 (.quad false)
  | .quadLow => .split 0b0111101#7 (.quad true)
  | .evNone ev => .vector ev

/-- The bits of a code word as the opcode table numbers them: a command byte, or a vector in bits 6 to 0. -/
def Code.word : Code → Byte
  | .command c => c
  | .vector ev => ev.setWidth 8
  | .split ev _ => ev.setWidth 8

/-- How a word of the opcode table is read (log 4). The table numbers command bytes and event vectors both from bit 0, so
one number can be a word of each. A number that is a key of the standard DATA_TABLE or TOGGLE_TABLE is that command byte;
another number below 128 is an event vector (bit 7 of a vector is 0); the rest are command bytes. -/
def codeOfTableWord (nbits w : Nat) : Option Code :=
  if nbits = 8 ∧ w < 256 then
    if (Tables.standard.data.lookup (BitVec.ofNat 8 w)).isSome || (Tables.standard.toggle.lookup (BitVec.ofNat 8 w)).isSome then
      some (.command (BitVec.ofNat 8 w))
    else if w < 128 then some (.vector (BitVec.ofNat 7 w))
    else some (.command (BitVec.ofNat 8 w))
  else none

/-- The instruction the decoder reads from a word of the opcode table, with the standard tables. -/
def decodeTableWord (nbits w : Nat) : Option Instr :=
  match codeOfTableWord nbits w with
  | none => none
  | some code =>
    match decode Tables.standard code with
    | .ok i => some i
    | .error _ => none

end Sys2Proof
end

