-- ==== Sys2Proof/Machine/ConfigCheck.lean ====
section
/-! DEFINITION. The check of the configuration and the tables at reset (spec/60_exceptions.md R155). -/

namespace Sys2Proof.Machine

/-- An address width of R21: 1 to 4. -/
def legalWidth (w : Nat) : Bool := decide (1 ≤ w) && decide (w ≤ 4)

/-- The key sets of DATA_TABLE, TOGGLE_TABLE and CTRL_TABLE are pairwise disjoint. -/
def tablesDisjoint (t : Tables) : Bool :=
  t.data.all (fun e => (t.toggle.lookup e.1).isNone && (t.ctrl.lookup e.1).isNone)
    && t.toggle.all (fun e => (t.ctrl.lookup e.1).isNone)

/-- Every DATA_TABLE lane width is 1 or 4, and a width of 4 has a QUAD_TABLE entry. -/
def dataLanesValid (t : Tables) : Bool :=
  t.data.all (fun e => e.2.lane == 1 || (e.2.lane == 4 && (t.quad.lookup e.1).isSome))

/-- Every QUAD_TABLE entry has a DATA_TABLE entry of lane width 4, an even dc, and the overhead dc / 2. -/
def quadEntriesValid (t : Tables) : Bool :=
  t.quad.all fun q =>
    match t.data.lookup q.1 with
    | some d => d.lane == 4 && q.2 % 2 == 0 && d.overhead == q.2 / 2
    | none => false

/-- Every TOGGLE_TABLE entry writes a legal width. -/
def toggleWidthsValid (t : Tables) : Bool := t.toggle.all (fun e => legalWidth e.2.newAw)

/-- The block accepts the configuration: none of the conditions of R155 holds. -/
def configValid (b : Build) (c : Configuration) : Bool :=
  c.wordSize == 8#8 && legalWidth c.awInit.toNat && tablesDisjoint b.tables && dataLanesValid b.tables
    && quadEntriesValid b.tables && toggleWidthsValid b.tables

end Sys2Proof.Machine
end

