-- ==== Sys2Proof/Machine/Records.lean ====
section
/-! DEFINITION. The data the block takes in and gives out: samples (spec/30_encoding.md R56), buffer entries
(spec/20_memory.md R41), byte and annotation records (R66, R67), and the numbered codes of the spec. -/

namespace Sys2Proof.Machine

/-- One input sample, R56. -/
structure Sample where
  ts : Nat
  eos : Bool
  lines : Lines
  deriving DecidableEq, Repr

/-- An entry of a byte buffer, R41: a byte, or the placeholder of R96, which has no value. -/
inductive Entry
  | byte (v : Byte)
  | empty
  deriving DecidableEq, Repr

/-- The valid bit of an entry on a byte record, R95. -/
def Entry.valid : Entry → Bool
  | .byte _ => true
  | .empty => false

/-- The assembly path, R60. -/
inductive AsmPath
  | single
  | quad
  deriving DecidableEq, Repr

/-- R66: 0 SINGLE, 1 QUAD. -/
def AsmPath.code : AsmPath → BitVec 1
  | .single => 0#1
  | .quad => 1#1

/-- The phase tag of a byte record. -/
inductive Phase
  | cmd
  | addr
  | dummy
  | data
  deriving DecidableEq, Repr

/-- R68. -/
def Phase.code : Phase → BitVec 2
  | .cmd => 0#2
  | .addr => 1#2
  | .dummy => 2#2
  | .data => 3#2

/-- The categories, in the order of R69. -/
inductive Category
  | misoData
  | mosiData
  | otherWarning
  | misoTransfer
  | mosiTransfer
  | controlCommand
  | dataCommand
  | error
  deriving DecidableEq, Repr

/-- R69. -/
def Category.code : Category → BitVec 3
  | .misoData => 0#3
  | .mosiData => 1#3
  | .otherWarning => 2#3
  | .misoTransfer => 3#3
  | .mosiTransfer => 4#3
  | .controlCommand => 5#3
  | .dataCommand => 6#3
  | .error => 7#3

/-- The kind of an annotation record. -/
inductive AnnKind
  | dataCmd
  | toggle
  | control
  | unrecognized
  | truncated
  deriving DecidableEq, Repr

/-- R67; 5 to 7 are never emitted. -/
def AnnKind.code : AnnKind → BitVec 3
  | .dataCmd => 0#3
  | .toggle => 1#3
  | .control => 2#3
  | .unrecognized => 3#3
  | .truncated => 4#3

/-- Byte record `BR`, R66. The pairs (mosi_v, mosi) and (miso_v, miso) are entries: valid with a byte, or not valid and
without a value (R96, log 15). -/
structure ByteRecord where
  startTs : Nat
  endTs : Nat
  idx : Nat
  path : AsmPath
  mosi : Entry
  miso : Entry
  phase : Phase
  deriving DecidableEq, Repr

/-- The fields only a DATA_CMD record has (R67): the count and the end address are exact integers (R126). -/
structure DataRange where
  addrStart : BitVec 32
  count : Int
  addrEnd : Int
  deriving DecidableEq, Repr

/-- Annotation record `AR`, R67; `range` is present exactly in a DATA_CMD record (log 15). -/
structure AnnRecord where
  cat : Category
  kind : AnnKind
  cmd : Byte
  cont : Bool
  startTs : Nat
  endTs : Nat
  aw : BitVec 3
  range : Option DataRange
  deriving DecidableEq, Repr

/-- A record on one of the two output ports. -/
inductive Record
  | byte (r : ByteRecord)
  | ann (r : AnnRecord)
  deriving DecidableEq, Repr

/-- The step's timestamp a record carries. -/
def Record.endTs : Record → Nat
  | .byte r => r.endTs
  | .ann r => r.endTs

/-- The states of FSM.0, R37. -/
inductive Fsm
  | idle
  | cmdPhase
  | dataPhase
  | contPending
  deriving DecidableEq, Repr

/-- R37. -/
def Fsm.code : Fsm → BitVec 2
  | .idle => 0b00#2
  | .cmdPhase => 0b01#2
  | .dataPhase => 0b10#2
  | .contPending => 0b11#2

/-- The open states of R37. -/
def Fsm.isOpen : Fsm → Bool
  | .idle => false
  | .cmdPhase => true
  | .dataPhase => true
  | .contPending => false

/-- A fault of the machine with its info argument (R156): timestamp, or clock position. -/
inductive FaultCause
  | nonmonotonicTs (ts : Nat)
  | quadLinesAbsent (pos : Nat)
  | counterOverflow (pos : Nat)
  | configInvalid
  deriving DecidableEq, Repr

/-- The fault codes of R154. -/
def FaultCause.code : FaultCause → BitVec 4
  | .nonmonotonicTs _ => 1#4
  | .quadLinesAbsent _ => 2#4
  | .counterOverflow _ => 3#4
  | .configInvalid => 4#4

end Sys2Proof.Machine
end

