-- ==== Sys2Proof/Machine/State.lean ====
section
/-! DEFINITION. The state of the block (spec/10_state.md, spec/40_edge_detect.md R76, spec/44_output_events.md R139) and its
value after reset (spec/70_reset_and_hazards.md R166). The groups are the spec's own. -/

namespace Sys2Proof.Machine

/-- Session registers: SES.0 aw (R21) and SES.3 cont (R24). SES.1 afw is `State.afw`, SES.2 is `State.build`. -/
structure Session where
  aw : BitVec 3
  cont : Bool
  deriving DecidableEq, Repr

/-- Transaction registers TXN.0 to TXN.11 (R25 to R31). -/
structure Txn where
  cmd : Byte
  cmdValid : Bool
  quadEn : Bool
  qs : BitVec 4
  dc : Nat
  pos : Nat
  isCont : Bool
  startTs : Nat
  endTs : Nat
  mosiSeq : List Entry
  misoSeq : List Entry
  nclk : Nat
  deriving DecidableEq, Repr

/-- Lane-assembler registers LA.0 to LA.5 (R32 to R34). -/
structure Lane where
  saccMosi : Byte
  saccMiso : Byte
  sbits : BitVec 4
  qhi : Nibble
  qhalf : Bool
  bstart : Nat
  deriving DecidableEq, Repr

/-- Edge-detector registers ED.0 to ED.2 (R35, R36) and last_ts (R76). -/
structure EdgeRegs where
  primed : Bool
  csaPrev : Bool
  sPrev : Bool
  lastTs : Nat
  deriving DecidableEq, Repr

/-- Run control RC.0 to RC.2 (R38, R39). -/
structure RunControl where
  halted : Bool
  fault : Bool
  faultCode : BitVec 4
  deriving DecidableEq, Repr

/-- What the environment presents in one step (R139, R148). The spec does not say what becomes of a sample presented together
with rst; that an item is a reset or a sample and never both is the model's choice (DESIGN CHOICE, log 13). -/
inductive PortInput
  /-- smp_valid = 1 with this sample. -/
  | sample (smp : Sample)
  /-- smp_valid = 0. -/
  | noSample
  /-- rst with this configuration on cfg, and no sample in the same step. -/
  | reset (cfg : Configuration)
  deriving DecidableEq, Repr

/-- The ports of R139. `smp`, `bev`, `aev` are what the ports carry in the current step; `input` is what the environment is
still going to present, oldest first; `trace` lists the records emitted since reset, oldest first (R150). -/
structure Ports where
  smp : Sample
  bev : Option ByteRecord
  aev : Option AnnRecord
  input : List PortInput
  trace : List Record
  deriving DecidableEq, Repr

/-- The state of the block. `free` counts the free values drawn (log 2). -/
structure State where
  cfg : Configuration
  build : Build
  ses : Session
  txn : Txn
  la : Lane
  ed : EdgeRegs
  fsm : Fsm
  rc : RunControl
  io : Ports
  free : Nat
  deriving DecidableEq, Repr

/-- No step of this block stops the machine: a fault of the spec is a next state with the fault registers written
(R156, `State.raiseFault`; log 6). Nothing raises a fault of this type, so it has no constructor. -/
inductive Fault
  deriving DecidableEq, Repr

/-- Why an instruction has no meaning. -/
inductive Refusal
  /-- Raised by an arm of `exec` for an instruction that has no meaning yet; safe, since nothing is claimed of it. No arm
  raises it in this model. -/
  | notModelled (mnemonic : String)
  deriving DecidableEq, Repr

/-- The registers after reset with a configuration (R166). Registers that R166 leaves unspecified are zero (log 1). -/
def State.resetWith (b : Build) (c : Configuration) : State where
  cfg := c
  build := b
  ses := { aw := c.awInit, cont := false }
  txn :=
    { cmd := 0#8, cmdValid := false, quadEn := false, qs := 0#4, dc := 0, pos := 0, isCont := false,
      startTs := 0, endTs := 0, mosiSeq := [], misoSeq := [], nclk := 0 }
  la := { saccMosi := 0x00#8, saccMiso := 0x00#8, sbits := 0#4, qhi := 0x0#4, qhalf := false, bstart := 0 }
  ed := { primed := false, csaPrev := false, sPrev := false, lastTs := 0 }
  fsm := .idle
  rc :=
    if configValid b c then { halted := false, fault := false, faultCode := 0#4 }
    else { halted := false, fault := true, faultCode := FaultCause.configInvalid.code }
  io := { smp := { ts := 0, eos := false, lines := 0#6 }, bev := none, aev := none, input := [], trace := [] }
  free := 0

/-- The machine right after reset with the default build and configuration (R4, R6, R166). -/
def State.reset : State := State.resetWith Build.standard Configuration.standard

end Sys2Proof.Machine
end

