-- ==== Sys2Proof/Machine/Ops.lean ====
section
/-! DEFINITION. The named operations over the registers, the byte buffers and the ports, and the one way a fault is taken
(spec/60_exceptions.md R156). -/

namespace Sys2Proof.Config

/-! ### The framer's constants, spec/00_scope.md R5 -/

/-- CMD_POS of R5: the command byte is complete at this clock position. -/
def cmdPos : Nat := 7

/-- QS of R5: the quad start point of every quad command. -/
def quadStart : BitVec 4 := 8#4

/-- The clock position at which a continuation transaction resumes (R5). -/
def contPos : Nat := 8

/-- CHK = QS + 7 of R5: the clock position of the continuation check. -/
def chk : Nat := 15

/-- THRESH of R5: the last clock position whose quad byte goes to MOSI. -/
def thresh : Nat := 15

/-- The continuation signature nibble of R5. -/
def signature : Nibble := 0xA#4

end Sys2Proof.Config

namespace Sys2Proof.Machine

/-- SES.1 afw, R22: twice the address width. -/
def State.afw (s : State) : BitVec 4 := 2#4 * s.ses.aw.setWidth 4

/-- The status port of R143. -/
structure Status where
  fsm : BitVec 2
  aw : BitVec 3
  cont : Bool
  halted : Bool
  fault : Bool
  faultCode : BitVec 4
  deriving DecidableEq, Repr

/-- What `st` shows, R143. -/
def State.status (s : State) : Status :=
  ⟨s.fsm.code, s.ses.aw, s.ses.cont, s.rc.halted, s.rc.fault, s.rc.faultCode⟩

/-- `MemRead(buf, i, 1)` of R8 on mosi_seq: the entry with index i, if the buffer has one. -/
def State.mosiEntry (s : State) (i : Nat) : Option Entry := s.txn.mosiSeq[i]?

/-- The same on miso_seq. -/
def State.misoEntry (s : State) (i : Nat) : Option Entry := s.txn.misoSeq[i]?

/-! ### Taking a fault -/

/-- `raise Fault(code, info)`, R156: fault and fault_code, and nothing else. No register holds the info. -/
def State.raiseFault (c : FaultCause) (s : State) : State :=
  { s with rc := { s.rc with fault := true, faultCode := c.code } }

/-- The end of an operation that may fault: its result, or the fault taken from the state before it, since a faulting step
writes nothing else (R156, R161). -/
def commit (s : State) : Except FaultCause State → Host.Outcome State Fault Refusal
  | .ok s' => .next s'
  | .error c => .next (s.raiseFault c)

/-! ### Ports -/

/-- A new step: no record is presented (R139), the input item is consumed. -/
def State.openStep (rest : List PortInput) (s : State) : State :=
  { s with io := { s.io with bev := none, aev := none, input := rest } }

/-- The sample of this step is on the port. -/
def State.present (smp : Sample) (rest : List PortInput) (s : State) : State :=
  { s with io := { s.io with smp := smp, bev := none, aev := none, input := rest } }

/-- `Emit` of a byte record. -/
def State.emitByte (r : ByteRecord) (s : State) : State :=
  { s with io := { s.io with bev := some r, trace := s.io.trace ++ [.byte r] } }

/-- `Emit` of an annotation record. -/
def State.emitAnn (r : AnnRecord) (s : State) : State :=
  { s with io := { s.io with aev := some r, trace := s.io.trace ++ [.ann r] } }

/-! ### Byte buffers -/

/-- The two appends and the count of a byte completion, R95. -/
def State.appendEntries (em es : Entry) (s : State) : State :=
  { s with txn := { s.txn with mosiSeq := s.txn.mosiSeq ++ [em], misoSeq := s.txn.misoSeq ++ [es], nclk := s.txn.nclk + 1 } }

/-! ### Registers -/

/-- ClearPartial, R97. -/
def State.clearPartial (s : State) : State :=
  { s with la := { s.la with saccMosi := 0x00#8, saccMiso := 0x00#8, sbits := 0#4, qhi := 0x0#4, qhalf := false } }

/-- Write of SES.0. -/
def State.setAw (w : BitVec 3) (s : State) : State := { s with ses := { s.ses with aw := w } }

/-- Write of SES.3. -/
def State.setCont (b : Bool) (s : State) : State := { s with ses := { s.ses with cont := b } }

/-- Write of FSM.0. -/
def State.setFsm (f : Fsm) (s : State) : State := { s with fsm := f }

/-- Write of TXN.5. -/
def State.setPos (p : Nat) (s : State) : State := { s with txn := { s.txn with pos := p } }

/-- Write of TXN.8. -/
def State.setEndTs (t : Nat) (s : State) : State := { s with txn := { s.txn with endTs := t } }

/-- Write of RC.0. -/
def State.setHalted (s : State) : State := { s with rc := { s.rc with halted := true } }

/-! ### Free values (log 2) -/

/-- A fresh free byte. -/
def State.drawByte (s : State) : Byte × State := (Config.freeByte s.free, { s with free := s.free + 1 })

end Sys2Proof.Machine
end

