-- ==== Sys2Proof/Machine/Operands.lean ====
section
/-! DEFINITION. The operands of the block's operations: the normalised levels and data lines of the sample on the port
(spec/30_encoding.md R57, R64, spec/41_lane_assembler.md R87, R90), buffer entries and the big-endian address of
spec/20_memory.md R44. -/

namespace Sys2Proof.Machine

/-- csa of R57: the chip-select line is at its active level. -/
def csaOf (c : Configuration) (l : Lines) : Bool := bitAt l 0 == c.csActive

/-- s of R57: 1 after a sampling edge. -/
def sOf (c : Configuration) (l : Lines) : Bool := bitAt l 1 ^^ (c.cpol ^^ c.cpha)

/-- csa of the sample on the port. -/
def State.csaNow (s : State) : Bool := csaOf s.cfg s.io.smp.lines

/-- s of the sample on the port. -/
def State.sNow (s : State) : Bool := sOf s.cfg s.io.smp.lines

/-- mb of R87: IO0, the MOSI line. -/
def mosiBit (l : Lines) : Bool := bitAt l 2

/-- sb of R87: IO1, the MISO line. -/
def misoBit (l : Lines) : Bool := bitAt l 3

/-- The nibble of R64: IO3, IO2, IO1, IO0 from the top bit down. -/
def nibbleOf (l : Lines) : Nibble := bit (bitAt l 5) ++ bit (bitAt l 4) ++ bit (bitAt l 3) ++ bit (bitAt l 2)

/-- The operand of a QUAD edge (R90): the nibble, or the fault when IO2 and IO3 are absent, before anything is written. -/
def State.quadNibble (s : State) : Except FaultCause Nibble :=
  if s.cfg.hasQuad then .ok (nibbleOf s.io.smp.lines) else .error (.quadLinesAbsent s.txn.pos)

/-- The value of an entry. R96: an `empty` entry has none, so it is a free value (log 2). -/
def State.entryValue (e : Entry) (s : State) : Byte × State :=
  match e with
  | .byte v => (v, s)
  | .empty => s.drawByte

/-- The loop of R44: `addr := addr * 256 + v` over the entries. -/
def assembleAddr : List Entry → Nat → State → Nat × State
  | [], addr, s => (addr, s)
  | e :: es, addr, s => assembleAddr es (addr * 256 + (s.entryValue e).1.toNat) (s.entryValue e).2

/-- The start address of a data command, R44: the entries 1 to aw of mosi_seq, first most significant. -/
def State.startAddr (s : State) : Nat × State :=
  assembleAddr ((s.txn.mosiSeq.drop 1).take s.ses.aw.toNat) 0 s

end Sys2Proof.Machine
end

