-- ==== Sys2Proof/Machine/Flags.lean ====
section
/-! DEFINITION. The one-bit conditions the rules compute: the event vector (spec/30_encoding.md R58), the path select (R60),
the continuation signature (spec/42_framer.md R110), the counter limits (spec/60_exceptions.md R159), the address filter
(spec/43_command_interpreter.md R127). -/

namespace Sys2Proof.Machine

/-- The event vector of R58: eos, primed, open, csa_prev, csa_now, s_prev, s_now from bit 6 down. -/
def State.eventVector (s : State) : EventVector :=
  bit s.io.smp.eos ++ bit s.ed.primed ++ bit s.fsm.isOpen ++ bit s.ed.csaPrev ++ bit s.csaNow ++ bit s.ed.sPrev ++ bit s.sNow

/-- path = QUAD, R60. -/
def State.onQuadPath (s : State) : Bool := s.txn.quadEn && decide (s.txn.qs.toNat ≤ s.txn.pos)

/-- The state bits that split EV_CLK, R60. -/
def State.edgeSelector (s : State) : Selector := if s.onQuadPath then .quad s.la.qhalf else .single

/-- The signature of R110: only the high nibble counts. -/
def hasSignature (b : Byte) : Bool := b.extractLsb' 4 4 == Config.signature

/-- A value exceeds what a counter of the given width holds, `2^w - 1` (R159); an unbounded counter holds every value. -/
def exceeds (w : Option Nat) (v : Nat) : Bool :=
  match w with
  | some n => decide (2 ^ n - 1 < v)
  | none => false

/-- The byte completion would make the buffer length or nclk exceed its counter (R159). -/
def State.countOverflow (s : State) : Bool :=
  exceeds s.build.widths.cntW (s.txn.mosiSeq.length + 1) || exceeds s.build.widths.cntW (s.txn.misoSeq.length + 1)
    || exceeds s.build.widths.cntW (s.txn.nclk + 1)

/-- The address filter of R127, on the start address alone. -/
def State.inFilter (s : State) (a : Nat) : Bool :=
  decide (s.cfg.minAddr.toNat ≤ a) && decide (a ≤ s.cfg.maxAddr.toNat)

/-- A timestamp that does not increase, R157. -/
def State.tsNotIncreasing (s : State) (smp : Sample) : Bool :=
  !smp.eos && s.ed.primed && decide (smp.ts ≤ s.ed.lastTs)

end Sys2Proof.Machine
end

