-- ==== Sys2Proof/Machine/Interpreter.lean ====
section
/-! DEFINITION. The command interpreter (spec/43_command_interpreter.md R119 to R138): one meaning for each command row,
over the shared DataCmd (R122) and Toggle (R131), and the dispatch Interpret (R134). -/

namespace Sys2Proof.Machine

/-- An annotation record with the fields every kind has (R122, R131 to R133). -/
def State.annotation (s : State) (cat : Category) (kind : AnnKind) (c : Byte) (range : Option DataRange) : AnnRecord where
  cat := cat
  kind := kind
  cmd := c
  cont := s.txn.isCont
  startTs := s.txn.startTs
  endTs := s.txn.endTs
  aw := s.ses.aw
  range := range

/-- The data byte count of R124: T - 1 - aw - overhead, an exact integer. -/
def dataCount (t aw overhead : Nat) : Int := (t : Int) - 1 - (aw : Int) - (overhead : Int)

/-- The end address of R125. -/
def endAddr (a : Nat) (n : Int) : Int := (a : Int) + n - 1

/-- The range of a data-command record (R122, R124, R125). -/
def dataRange (t aw overhead a : Nat) : DataRange where
  addrStart := BitVec.ofNat 32 a
  count := dataCount t aw overhead
  addrEnd := endAddr a (dataCount t aw overhead)

/-- DataCmd, R122: truncation (R123) before the filter (R127). -/
def dataCmd (overhead : Nat) (s : State) : State :=
  if s.txn.mosiSeq.length < 1 + s.ses.aw.toNat then
    s.emitAnn (s.annotation .error .truncated s.txn.cmd none)
  else
    let a := s.startAddr.1
    let s' := s.startAddr.2
    if s.inFilter a then
      s'.emitAnn (s.annotation .dataCommand .dataCmd s.txn.cmd
        (some (dataRange s.txn.mosiSeq.length s.ses.aw.toNat overhead a)))
    else s'

/-- Toggle, R131: the record carries the old aw, the write comes after it. -/
def toggleCmd (w : BitVec 3) (s : State) : State :=
  (s.emitAnn (s.annotation .controlCommand .toggle s.txn.cmd none)).setAw w

/-- The record of R132. -/
def controlCmd (c : Byte) (s : State) : State := s.emitAnn (s.annotation .controlCommand .control c none)

/-- The record of R133. -/
def unrecognizedCmd (c : Byte) (s : State) : State := s.emitAnn (s.annotation .controlCommand .unrecognized c none)

/-- The address width that a TOGGLE_TABLE entry writes. In every accepted build it is the entry's own number (R155); the low
three bits of a number that does not fit aw are the model's choice (DESIGN CHOICE, log 25). -/
def newWidth (g : ToggleEntry) : BitVec 3 := BitVec.ofNat 3 g.newAw

/-- Interpret, R134. -/
def interpret (s : State) : State :=
  match s.build.tables.kindOf s.txn.cmd with
  | .data d => dataCmd d.overhead s
  | .toggle g => toggleCmd (newWidth g) s
  | .control _ => controlCmd s.txn.cmd s
  | .unrecognized => unrecognizedCmd s.txn.cmd s

/-- READ, R119. -/
def execRead (s : State) : Host.Outcome State Fault Refusal := .next (dataCmd 0 s)

/-- FAST_READ, R120. -/
def execFastRead (s : State) : Host.Outcome State Fault Refusal := .next (dataCmd 1 s)

/-- QUAD_READ, R121. -/
def execQuadRead (s : State) : Host.Outcome State Fault Refusal := .next (dataCmd 2 s)

/-- EN4B, R129. -/
def execEn4b (s : State) : Host.Outcome State Fault Refusal := .next (toggleCmd 4#3 s)

/-- EX4B, R130. -/
def execEx4b (s : State) : Host.Outcome State Fault Refusal := .next (toggleCmd 3#3 s)

/-- CONTROL, R132. -/
def execControl (c : Byte) (s : State) : Host.Outcome State Fault Refusal := .next (controlCmd c s)

/-- UNRECOGNIZED, R133. -/
def execUnrecognized (c : Byte) (s : State) : Host.Outcome State Fault Refusal := .next (unrecognizedCmd c s)

end Sys2Proof.Machine
end

