-- ==== Sys2Proof/Machine/LaneAssembler.lean ====
section
/-! DEFINITION. The lane assembler (spec/41_lane_assembler.md R87 to R97) and the phase tag of its byte records
(spec/42_framer.md R111); the meanings of SINGLE_EDGE, QUAD_HIGH and QUAD_LOW. -/

namespace Sys2Proof.Machine

/-- PhaseOf, R111. -/
def State.phaseOf (s : State) (idx : Nat) : Phase :=
  if idx = 0 then .cmd
  else
    match s.build.tables.data.lookup s.txn.cmd with
    | none => .data
    | some d =>
      if idx ≤ s.ses.aw.toNat then .addr
      else if idx ≤ s.ses.aw.toNat + d.overhead then .dummy
      else .data

/-- The byte record of a completion, R95. -/
def State.byteRecord (s : State) (em es : Entry) (p : AsmPath) : ByteRecord where
  startTs := s.la.bstart
  endTs := s.io.smp.ts
  idx := s.txn.mosiSeq.length
  path := p
  mosi := em
  miso := es
  phase := s.phaseOf s.txn.mosiSeq.length

/-- ByteDone, R95; COUNTER_OVERFLOW of R159. -/
def byteDone (em es : Entry) (p : AsmPath) (s : State) : Except FaultCause State :=
  if s.countOverflow then .error (.counterOverflow s.txn.pos)
  else .ok ((s.appendEntries em es).emitByte (s.byteRecord em es p))

/-- CompleteSingle, R89. -/
def completeSingle (m b : Byte) (s : State) : Except FaultCause State := byteDone (.byte m) (.byte b) .single s

/-- The bit-order multiplexer of R88: MSB first shifts left, LSB first shifts right. -/
def shiftIn (lsbFirst : Bool) (acc : Byte) (b : Bool) : Byte :=
  if lsbFirst then bit b ++ acc.extractLsb' 1 7 else acc.extractLsb' 0 7 ++ bit b

/-- The first assignment of R88: the byte's first edge sets bstart. -/
def State.markByteStart (s : State) : State :=
  if s.la.sbits = 0#4 then { s with la := { s.la with bstart := s.io.smp.ts } } else s

/-- The single-bit accumulators and the bit count. -/
def State.setSingle (m b : Byte) (n : BitVec 4) (s : State) : State :=
  { s with la := { s.la with saccMosi := m, saccMiso := b, sbits := n } }

/-- SingleEdge, R88: the completed MOSI byte, if the edge completes one, and the state. -/
def singleEdge (s : State) : Except FaultCause (Option Byte × State) :=
  let m := shiftIn s.cfg.bitOrder s.la.saccMosi (mosiBit s.io.smp.lines)
  let b := shiftIn s.cfg.bitOrder s.la.saccMiso (misoBit s.io.smp.lines)
  if s.la.sbits = 7#4 then
    match completeSingle m b s.markByteStart with
    | .ok s' => .ok (some m, s'.setSingle 0x00#8 0x00#8 0#4)
    | .error c => .error c
  else .ok (none, s.markByteStart.setSingle m b (s.la.sbits + 1#4))

/-- QuadHigh, R91. -/
def quadHigh (s : State) : Except FaultCause State :=
  match s.quadNibble with
  | .error c => .error c
  | .ok nib => .ok { s with la := { s.la with qhi := nib, qhalf := true, bstart := s.io.smp.ts } }

/-- The quad byte of R65: the held nibble is the high one. -/
def quadByte (hi lo : Nibble) : Byte := hi ++ lo

/-- The entry of the MOSI buffer and of the MISO buffer for a quad byte completing at a clock position, R92, R94, R96. -/
def quadEntries (pos : Nat) (b : Byte) : Entry × Entry :=
  if pos ≤ Config.thresh then (.byte b, .empty) else (.empty, .byte b)

/-- QuadLow, R92: the byte and the state. -/
def quadLow (s : State) : Except FaultCause (Byte × State) :=
  match s.quadNibble with
  | .error c => .error c
  | .ok nib =>
    let b := quadByte s.la.qhi nib
    let e := quadEntries s.txn.pos b
    match byteDone e.1 e.2 .quad s with
    | .error c => .error c
    | .ok s' => .ok (b, { s' with la := { s'.la with qhi := 0x0#4, qhalf := false } })

/-- The state part of an operation that also answers a value. -/
def stateOf {α : Type} : Except FaultCause (α × State) → Except FaultCause State
  | .ok r => .ok r.2
  | .error c => .error c

/-- SINGLE_EDGE, R88. -/
def execSingleEdge (s : State) : Host.Outcome State Fault Refusal := commit s (stateOf (singleEdge s))

/-- QUAD_HIGH, R91. -/
def execQuadHigh (s : State) : Host.Outcome State Fault Refusal := commit s (quadHigh s)

/-- QUAD_LOW, R92. -/
def execQuadLow (s : State) : Host.Outcome State Fault Refusal := commit s (stateOf (quadLow s))

end Sys2Proof.Machine
end

