-- ==== Sys2Proof/Machine/Framer.lean ====
section
/-! DEFINITION. The transaction state machine (spec/42_framer.md R101 to R118): opening, clocking and closing a transaction;
the meanings of BEGIN_FRESH and BEGIN_CONT. -/

namespace Sys2Proof.Machine

/-- BeginFresh, R102. -/
def beginFresh (s : State) : State :=
  let c := s.clearPartial
  { c with
    txn := { c.txn with startTs := s.io.smp.ts, mosiSeq := [], misoSeq := [], nclk := 0, cmdValid := false, quadEn := false,
                        dc := 0, pos := 0, isCont := false }
    fsm := .cmdPhase }

/-- BeginCont, R103: both buffers are pre-seeded with the carried command byte. -/
def beginCont (s : State) : State :=
  let c := s.clearPartial
  { c with
    txn := { c.txn with startTs := s.io.smp.ts, mosiSeq := [.byte s.txn.cmd], misoSeq := [.byte s.txn.cmd], nclk := 0,
                        pos := Config.contPos, isCont := true }
    fsm := .dataPhase }

/-- QuadEntry, R107. -/
def quadEntry (m : Byte) (s : State) : State :=
  match s.build.tables.quad.lookup m with
  | some dc => { s with txn := { s.txn with quadEn := true, qs := Config.quadStart, dc := dc } }
  | none => s

/-- CaptureCommand, R106. -/
def captureCommand (m : Byte) (s : State) : State :=
  (quadEntry m { s with txn := { s.txn with cmd := m, cmdValid := true } }).setFsm .dataPhase

/-- The byte CaptureCommand takes. R105: the edge at position 7 always completes one; where none completed, R88 gives the
byte no value, so it is a free value (log 2). -/
def captureAt (m : Option Byte) (s : State) : State :=
  match m with
  | some b => captureCommand b s
  | none => captureCommand s.drawByte.1 s.drawByte.2

/-- ContCheck, R110. -/
def contCheck (b : Byte) (s : State) : State := s.setCont (hasSignature b)

/-- `pos <- p + 1` with COUNTER_OVERFLOW (R105, R159). -/
def advancePos (p : Nat) (s : State) : Except FaultCause State :=
  if exceeds s.build.widths.posW (p + 1) then .error (.counterOverflow p) else .ok (s.setPos (p + 1))

/-- The QUAD part of ClockEdge, R105. -/
def quadPart (s : State) : Except FaultCause State :=
  if s.la.qhalf then
    match quadLow s with
    | .error c => .error c
    | .ok r => .ok (if 0 < s.txn.dc ∧ s.txn.pos = Config.chk then contCheck r.1 r.2 else r.2)
  else quadHigh s

/-- The SINGLE part of ClockEdge, R105. -/
def singlePart (s : State) : Except FaultCause State :=
  match singleEdge s with
  | .error c => .error c
  | .ok r => .ok (if s.txn.pos = Config.cmdPos ∧ s.txn.isCont = false then captureAt r.1 r.2 else r.2)

/-- ClockEdge, R105. -/
def clockEdge (s : State) : Except FaultCause State :=
  match (if s.onQuadPath then quadPart s else singlePart s) with
  | .error c => .error c
  | .ok s' => advancePos s.txn.pos s'

/-- The first two lines of EndTxn, R114. -/
def closeWindow (s : State) : State := s.clearPartial.setEndTs s.io.smp.ts

/-- The last line of EndTxn, R114. -/
def settleFsm (s : State) : State := s.setFsm (if s.ses.cont then .contPending else .idle)

/-- EndTxn, R114: a degenerate window (R113) is not interpreted. -/
def endTxn (s : State) : State :=
  let c := closeWindow s
  settleFsm (if 0 < c.txn.nclk then interpret c else c)

/-- BEGIN_FRESH, R102. -/
def execBeginFresh (s : State) : Host.Outcome State Fault Refusal := .next (beginFresh s)

/-- BEGIN_CONT, R103. -/
def execBeginCont (s : State) : Host.Outcome State Fault Refusal := .next (beginCont s)

end Sys2Proof.Machine
end

