-- ==== Sys2Proof/Machine/EdgeDetector.lean ====
section
/-! DEFINITION. The edge detector (spec/40_edge_detect.md R76 to R86): the meanings of the six event classes. Each includes
the register writes at the end of R76, which its rule lists among the state written. -/

namespace Sys2Proof.Machine

/-- The last line of R76: primed, csa_prev, s_prev and last_ts take the sample's values. -/
def latchEdge (s : State) : State :=
  { s with ed := { primed := true, csaPrev := s.csaNow, sPrev := s.sNow, lastTs := s.io.smp.ts } }

/-- The action of EV_CS_ASSERT, R80: cont chooses. -/
def beginTxn (s : State) : State := if s.ses.cont then beginCont s else beginFresh s

/-- The action of EV_CLK with the writes at the end of the step. -/
def clockStep (s : State) : Except FaultCause State :=
  match clockEdge s with
  | .error c => .error c
  | .ok s' => .ok (latchEdge s')

/-- EV_EOS, R85: halted and nothing else. -/
def execEvEos (s : State) : Host.Outcome State Fault Refusal := .next s.setHalted

/-- EV_PRIME, R77. -/
def execEvPrime (s : State) : Host.Outcome State Fault Refusal := .next (latchEdge s)

/-- EV_CS_ASSERT, R80. -/
def execEvCsAssert (s : State) : Host.Outcome State Fault Refusal := .next (latchEdge (beginTxn s))

/-- EV_CS_DEASSERT, R81. -/
def execEvCsDeassert (s : State) : Host.Outcome State Fault Refusal := .next (latchEdge (endTxn s))

/-- EV_CLK, R82. -/
def execEvClk (s : State) : Host.Outcome State Fault Refusal := commit s (clockStep s)

/-- EV_NONE, R84. -/
def execEvNone (s : State) : Host.Outcome State Fault Refusal := .next (latchEdge s)

end Sys2Proof.Machine
end

