-- ==== Sys2Proof/Machine/Dispatch.lean ====
section
/-! DEFINITION. One arm per instruction: the rule of the spec each follows stands beside its meaning. -/

namespace Sys2Proof.Machine

def exec (i : Instr) (s : State) : Host.Outcome State Fault Refusal :=
  match i with
  -- the command rows
  | .read => Sys2Proof.Machine.execRead s
  | .fastRead => Sys2Proof.Machine.execFastRead s
  | .quadRead => Sys2Proof.Machine.execQuadRead s
  | .en4b => Sys2Proof.Machine.execEn4b s
  | .ex4b => Sys2Proof.Machine.execEx4b s
  | .control c => Sys2Proof.Machine.execControl c s
  | .unrecognized c => Sys2Proof.Machine.execUnrecognized c s
  -- the event classes and their splits
  | .evEos _ => Sys2Proof.Machine.execEvEos s
  | .evPrime _ => Sys2Proof.Machine.execEvPrime s
  | .evCsAssert _ => Sys2Proof.Machine.execEvCsAssert s
  | .beginFresh _ => Sys2Proof.Machine.execBeginFresh s
  | .beginCont _ => Sys2Proof.Machine.execBeginCont s
  | .evCsDeassert _ => Sys2Proof.Machine.execEvCsDeassert s
  | .evClk => Sys2Proof.Machine.execEvClk s
  | .singleEdge => Sys2Proof.Machine.execSingleEdge s
  | .quadHigh => Sys2Proof.Machine.execQuadHigh s
  | .quadLow => Sys2Proof.Machine.execQuadLow s
  | .evNone _ => Sys2Proof.Machine.execEvNone s

end Sys2Proof.Machine
end

