-- ==== Sys2Proof/Machine/Fetch.lean ====
section
/-! DEFINITION. What one step does before an instruction runs (spec/40_edge_detect.md R76): the input item is taken, the
order of spec/60_exceptions.md R161 is kept, and the event vector is decoded. Also the state in which a given word of the
opcode table is the next instruction. -/

namespace Sys2Proof.Machine

/-- What fetching answers: the step is over, or an instruction runs. -/
inductive Fetched
  | done (s : State)
  | run (i : Instr) (s : State)
  deriving DecidableEq, Repr

/-- R166 to R169: the registers take their reset values with the configuration on cfg; the build stays; what the environment
is still going to present is the environment's. -/
def applyReset (cfg : Configuration) (rest : List PortInput) (s : State) : State :=
  (State.resetWith s.build cfg).openStep rest

/-- A step with a sample, R76: nothing after a fault or the end of stream; then the timestamp check, which an eos sample does
not undergo; then the event class. -/
def fetchSample (smp : Sample) (rest : List PortInput) (s : State) : Fetched :=
  if s.rc.fault || s.rc.halted then .done (s.present smp rest)
  else if s.tsNotIncreasing smp then .done ((s.present smp rest).raiseFault (.nonmonotonicTs smp.ts))
  else .run (decodeVector (s.present smp rest).eventVector) (s.present smp rest)

/-- One step's input: nothing more to come, a step without smp_valid (R139), a reset, or a sample. -/
def fetch (s : State) : Fetched :=
  match s.io.input with
  | [] => .done (s.openStep [])
  | .noSample :: rest => .done (s.openStep rest)
  | .reset cfg :: rest => .done (applyReset cfg rest s)
  | .sample smp :: rest => fetchSample smp rest s

/-- Lines with the given normalised levels under the configuration (R57) and the data lines low. -/
def linesFor (c : Configuration) (csa sn : Bool) : Lines :=
  0b0000#4 ++ bit (sn ^^ (c.cpol ^^ c.cpha)) ++ bit (csa == c.csActive)

/-- A state in which the next step forms exactly this event vector (log 3, log 4). The fsm is kept where it already is open
or closed as the vector says. -/
def placeVector (ev : EventVector) (s : State) : State :=
  { s with
    ed := { primed := bitAt ev 5, csaPrev := bitAt ev 3, sPrev := bitAt ev 1, lastTs := s.ed.lastTs }
    fsm := if s.fsm.isOpen == bitAt ev 4 then s.fsm else if bitAt ev 4 then .dataPhase else .idle
    rc := { halted := false, fault := false, faultCode := 0#4 }
    io := { s.io with
      input :=
        .sample { ts := s.ed.lastTs + 1, eos := bitAt ev 6, lines := linesFor s.cfg (bitAt ev 2) (bitAt ev 0) } :: s.io.input } }

/-- A state in which the next step interprets exactly this command byte: a window that carried the byte and `aw` address
entries of zero, and a sample that deasserts chip-select (log 3, log 4). The quad registers are those of R107. -/
def placeCommand (c : Byte) (s : State) : State :=
  let t := { s.txn with
    cmdValid := false, quadEn := false, dc := 0, isCont := false
    pos := if (s.build.tables.quad.lookup c).isSome then 8 + 2 * s.ses.aw.toNat else 8 + 8 * s.ses.aw.toNat
    mosiSeq := .byte c :: List.replicate s.ses.aw.toNat (.byte 0x00#8)
    misoSeq := .byte 0x00#8 :: List.replicate s.ses.aw.toNat
      (if (s.build.tables.quad.lookup c).isSome then .empty else .byte 0x00#8)
    nclk := 1 + s.ses.aw.toNat }
  placeVector 0b0111000#7 (captureCommand c { s with txn := t }).clearPartial

/-- The state in which the next step runs the code word. -/
def placeCode (code : Code) (s : State) : State :=
  match code with
  | .command c => placeCommand c s
  | .vector ev => placeVector ev s
  | .split ev _ => placeVector ev s

end Sys2Proof.Machine
end

