-- ==== Sys2Proof/Machine/Step.lean ====
section
/-! DEFINITION. One step of the block (spec/00_scope.md R9, spec/40_edge_detect.md R76). -/

namespace Sys2Proof.Machine

/-- One step: fetch, and run the instruction if there is one. -/
def step (s : State) : Host.Outcome State Fault Refusal :=
  match fetch s with
  | .done s' => .next s'
  | .run i s' => exec i s'

/-- The state in which the next step runs the word of the opcode table (log 3, log 4); a word the table has not stays out. -/
def State.withFetchWord (s : State) (nbits w : Nat) : State :=
  match codeOfTableWord nbits w with
  | some code => placeCode code s
  | none => s

end Sys2Proof.Machine
end

