-- ==== Sys2Proof/Machine/Stimulus.lean ====
section
/-! DEFINITION. The stimulus notation of spec/30_encoding.md R70 and R71: statements and the samples they stand for. It is
notation for the environment's samples; no step uses it. -/

namespace Sys2Proof.Machine

/-- A statement of R70 or a pseudo-statement of R71. -/
inductive Stmt
  | idle (n : Nat)
  | csa
  | csd
  | s1 (m s : Bool)
  | q4 (n : Nibble)
  | eos
  | s8 (m s : Byte)
  | q8 (b : Byte)
  deriving DecidableEq, Repr

/-- The lines of a sample as R70 lists them: IO3, IO2, IO1, IO0, SCLK, CS. -/
def lineWord (io3 io2 io1 io0 sclk cs : Bool) : Lines := bit io3 ++ bit io2 ++ bit io1 ++ bit io0 ++ bit sclk ++ bit cs

/-- One sample of a statement before it has a timestamp: eos and lines. -/
abbrev Shot := Bool × Lines

/-- `S1 m, s` of R70. -/
def shotsS1 (c : Configuration) (m s : Bool) : List Shot :=
  [(false, lineWord false false s m (c.cpol ^^ c.cpha) c.csActive),
   (false, lineWord false false s m (!(c.cpol ^^ c.cpha)) c.csActive)]

/-- `Q4 n` of R70. -/
def shotsQ4 (c : Configuration) (n : Nibble) : List Shot :=
  [(false, lineWord (bitAt n 3) (bitAt n 2) (bitAt n 1) (bitAt n 0) (c.cpol ^^ c.cpha) c.csActive),
   (false, lineWord (bitAt n 3) (bitAt n 2) (bitAt n 1) (bitAt n 0) (!(c.cpol ^^ c.cpha)) c.csActive)]

/-- The order in which `S8` sends the bits of a byte, R71: j_i = 7 - i when BIT_ORDER = 0, j_i = i when BIT_ORDER = 1. -/
def bitIndices (c : Configuration) : List Nat :=
  if c.bitOrder then [0, 1, 2, 3, 4, 5, 6, 7] else [7, 6, 5, 4, 3, 2, 1, 0]

/-- The samples of a statement, R70 and R71. R70 gives the sample of `EOS` no lines, and R56 says that they are ignored; that
they are all zeros is the model's choice (DESIGN CHOICE, log 26). -/
def Stmt.shots (c : Configuration) : Stmt → List Shot
  | .idle n => List.replicate n (false, lineWord false false false false c.cpol (!c.csActive))
  | .csa => [(false, lineWord false false false false c.cpol c.csActive)]
  | .csd => [(false, lineWord false false false false c.cpol (!c.csActive))]
  | .s1 m s => shotsS1 c m s
  | .q4 n => shotsQ4 c n
  | .eos => [(true, 0b000000#6)]
  | .s8 m s => (bitIndices c).flatMap fun j => shotsS1 c (bitAt m j) (bitAt s j)
  | .q8 b => shotsQ4 c (b.extractLsb' 4 4) ++ shotsQ4 c (b.extractLsb' 0 4)

/-- `S8 m`, R71: MISO is high for every bit. -/
def Stmt.s8High (m : Byte) : Stmt := .s8 m 0xFF#8

/-- `SB b0, ..., bn`, R71. -/
def stmtsSB (bs : List Byte) : List Stmt := bs.map Stmt.s8High

/-- `QB b0, ..., bn`, R71. -/
def stmtsQB (bs : List Byte) : List Stmt := bs.map Stmt.q8

/-- `TXN body`, R71. -/
def stmtsTXN (body : List Stmt) : List Stmt := [.csa] ++ body ++ [.csd]

/-- The samples from a timestamp on, one unit apart (R70: the j-th sample has ts = j). -/
def samplesFrom : Nat → List Shot → List PortInput
  | _, [] => []
  | t, (e, l) :: rest => .sample { ts := t, eos := e, lines := l } :: samplesFrom (t + 1) rest

/-- A program's samples (R70, R73). -/
def programSamples (c : Configuration) (p : List Stmt) : List PortInput := samplesFrom 0 (p.flatMap (Stmt.shots c))

end Sys2Proof.Machine
end

