-- ==== Sys2Proof/Safety.lean ====
section
/-! DEFINITION. What counts as a sound state and a sound run: the invariants of spec/10_state.md R40, the order of the
records (spec/20_memory.md R50), the environment's side of the interface (spec/44_output_events.md R148), and what part of a
state a rule can read (spec/70_reset_and_hazards.md R166). -/

namespace Sys2Proof.Machine

/-! ### The nine items of R40 -/

/-- Single-bit assembly is selected (R60). -/
def State.onSinglePath (s : State) : Bool := !s.onQuadPath

/-- The items of R40, in its order. Item 3 is the shape of `fsm` itself: one transaction, open exactly in the open states. -/
structure SpecInvariant (s : State) : Prop where
  item1 : s.ses.aw = 1#3 ∨ s.ses.aw = 2#3 ∨ s.ses.aw = 3#3 ∨ s.ses.aw = 4#3
  item2 : s.txn.mosiSeq.length = s.txn.misoSeq.length
  item4 : s.fsm = .cmdPhase ∨ s.fsm = .dataPhase → s.ed.csaPrev = true
  item5cmd : s.fsm = .cmdPhase → s.txn.isCont = false ∧ s.txn.cmdValid = false ∧ s.txn.pos ≤ 7
  item5data : s.fsm = .dataPhase → s.txn.cmdValid = true
  item6start : s.txn.quadEn = true → s.txn.qs = 8#4
  item6half : s.la.qhalf = true → s.txn.quadEn = true ∧ 9 ≤ s.txn.pos ∧ s.txn.pos % 2 = 1
  item7 : 0 < s.la.sbits.toNat → (s.fsm = .cmdPhase ∨ s.fsm = .dataPhase) ∧ s.onSinglePath = true
  item8 : s.ses.cont = true → s.txn.quadEn = true ∧ 0 < s.txn.dc ∧ s.txn.cmdValid = true
  item9 : s.fsm = .idle ∨ s.fsm = .contPending → (s.fsm = .contPending ↔ s.ses.cont = true)

/-! ### A stronger invariant that every step keeps by itself -/

/-- An entry that is a byte. -/
def Entry.isByte : Entry → Bool
  | .byte _ => true
  | .empty => false

/-- CMD_PHASE: the first byte is being clocked in, nothing is in the buffers. -/
structure CommandShape (s : State) : Prop where
  fresh : s.txn.isCont = false
  noCommand : s.txn.cmdValid = false
  notQuad : s.txn.quadEn = false
  bits : s.txn.pos = s.la.sbits.toNat
  inByte : s.txn.pos ≤ 7
  noHalf : s.la.qhalf = false
  noMosi : s.txn.mosiSeq = []
  noMiso : s.txn.misoSeq = []
  noBytes : s.txn.nclk = 0

/-- DATA_PHASE of a command that is not quad-capable (R98, R99). -/
structure SingleShape (s : State) : Prop where
  fresh : s.txn.isCont = false
  bits : s.txn.pos = 8 * s.txn.mosiSeq.length + s.la.sbits.toNat
  inByte : s.la.sbits.toNat ≤ 7
  noHalf : s.la.qhalf = false
  bytes : ∀ e ∈ s.txn.mosiSeq, e.isByte = true

/-- DATA_PHASE of a quad-capable command (R94, R100). -/
structure QuadShape (s : State) : Prop where
  started : 8 ≤ s.txn.pos
  noBits : s.la.sbits = 0#4
  half : s.la.qhalf = true ↔ s.txn.pos % 2 = 1
  entries : s.txn.mosiSeq.length = 1 + (s.txn.pos - 8) / 2
  bytes : ∀ e ∈ (s.txn.mosiSeq.drop 1).take 4, e.isByte = true

/-- DATA_PHASE: the command is captured and is entry 0 (R61, R103, R106). -/
structure DataShape (s : State) : Prop where
  captured : s.txn.cmdValid = true
  command : s.txn.mosiSeq[0]? = some (.byte s.txn.cmd)
  counted : s.txn.mosiSeq.length = s.txn.nclk + (if s.txn.isCont then 1 else 0)
  quad : s.txn.quadEn = true → QuadShape s
  single : s.txn.quadEn = false → SingleShape s

/-- Between windows nothing is half assembled (R97). -/
structure ClosedShape (s : State) : Prop where
  noBits : s.la.sbits = 0#4
  noHalf : s.la.qhalf = false
  pending : s.fsm = .contPending ↔ s.ses.cont = true

/-- The invariant of a state without a fault. -/
structure Consistent (s : State) : Prop where
  accepted : configValid s.build s.cfg = true
  width : legalWidth s.ses.aw.toNat = true
  lengths : s.txn.mosiSeq.length = s.txn.misoSeq.length
  quad : s.txn.quadEn = true → s.txn.qs = Config.quadStart ∧ s.txn.cmdValid = true
  cont : s.ses.cont = true → s.txn.quadEn = true ∧ 0 < s.txn.dc
  selected : s.fsm.isOpen = true → s.ed.primed = true ∧ s.ed.csaPrev = true
  closed : s.fsm.isOpen = false → ClosedShape s
  command : s.fsm = .cmdPhase → CommandShape s
  data : s.fsm = .dataPhase → DataShape s

/-- The invariant of every state: R40 speaks of runs with fault = 0. -/
def Inv (s : State) : Prop := s.rc.fault = false → Consistent s

/-! ### The order of the records, R50 -/

/-- An annotation record of the list, if it is one. -/
def Record.ann? : Record → Option AnnRecord
  | .ann r => some r
  | .byte _ => none

/-- A byte record of the list, if it is one. -/
def Record.byte? : Record → Option ByteRecord
  | .byte r => some r
  | .ann _ => none

/-- The annotation records emitted, in order. -/
def State.annotations (s : State) : List AnnRecord := s.io.trace.filterMap Record.ann?

/-- The byte records emitted, in order. -/
def State.byteRecords (s : State) : List ByteRecord := s.io.trace.filterMap Record.byte?

/-- Records leave in strictly increasing order of their end timestamp, annotation records in strictly increasing order of
their start timestamp too (R50, C13), and a byte record starts before it ends (R95). -/
structure OutputOrdered (s : State) : Prop where
  ends : s.io.trace.Pairwise (fun a b => a.endTs < b.endTs)
  starts : s.annotations.Pairwise (fun a b => a.startTs < b.startTs)
  bytes : ∀ r ∈ s.byteRecords, r.startTs < r.endTs
  past : ∀ r ∈ s.io.trace, s.ed.primed = true ∧ r.endTs ≤ s.ed.lastTs
  spans : ∀ r ∈ s.annotations, r.startTs ≤ r.endTs
  opened : s.fsm.isOpen = true →
    s.ed.primed = true ∧ s.txn.startTs ≤ s.ed.lastTs ∧ ∀ r ∈ s.annotations, r.endTs < s.txn.startTs
  assembling : s.la.sbits ≠ 0#4 ∨ s.la.qhalf = true → s.ed.primed = true ∧ s.la.bstart ≤ s.ed.lastTs

/-! ### The environment, R148 -/

/-- What is still to come keeps the environment's side: timestamps strictly increase (and fit TS_W), and each reset brings a
configuration that the check of R155 accepts, with the quad lines present. `prev` is the last timestamp, if there is one. -/
def inputKept (b : Build) (prev : Option Nat) : List PortInput → Bool
  | [] => true
  | .noSample :: rest => inputKept b prev rest
  | .reset c :: rest => configValid b c && c.hasQuad && inputKept b none rest
  | .sample smp :: rest =>
    if smp.eos then inputKept b prev rest
    else
      (match prev with
        | some p => decide (p < smp.ts)
        | none => true)
        && !exceeds b.widths.tsW smp.ts && inputKept b (some smp.ts) rest

/-- A run in which nothing can fault: the environment keeps its side, the quad lines are present, the counters do not
overflow (R157 to R159), and no fault is set. -/
structure Undisturbed (s : State) : Prop where
  input : inputKept s.build (if s.ed.primed then some s.ed.lastTs else none) s.io.input = true
  lines : s.cfg.hasQuad = true
  posUnbounded : s.build.widths.posW = none
  cntUnbounded : s.build.widths.cntW = none
  clean : s.rc.fault = false

/-! ### What a rule can read -/

/-- The state with every register set to zero that no rule reads as the state stands: cmd while cmd_valid = 0 and qs while
quad_en = 0 (R25, R26), csa_prev, s_prev and last_ts while primed = 0 (R36, R76), start_ts while closed and end_ts always
(R29: rewritten in the step that reads it), bstart while no byte is being assembled (R34). The sample port is read only after
a sample is presented on it. -/
def State.readable (s : State) : State :=
  { s with
    txn := { s.txn with
      cmd := if s.txn.cmdValid then s.txn.cmd else 0#8
      qs := if s.txn.quadEn then s.txn.qs else 0#4
      startTs := if s.fsm.isOpen then s.txn.startTs else 0
      endTs := 0 }
    la := { s.la with bstart := if s.la.sbits = 0#4 ∧ s.la.qhalf = false then 0 else s.la.bstart }
    ed := { s.ed with
      csaPrev := s.ed.primed && s.ed.csaPrev
      sPrev := s.ed.primed && s.ed.sPrev
      lastTs := if s.ed.primed then s.ed.lastTs else 0 }
    io := { s.io with smp := { ts := 0, eos := false, lines := 0#6 } } }

/-! ### Counters -/

/-- A value that a counter of the given width holds (R159). -/
def Fits (w : Option Nat) (v : Nat) : Prop := ∀ n, w = some n → v ≤ 2 ^ n - 1

/-- One more byte fits the buffers and nclk. -/
def State.ByteFits (s : State) : Prop :=
  Fits s.build.widths.cntW (s.txn.mosiSeq.length + 1) ∧ Fits s.build.widths.cntW (s.txn.misoSeq.length + 1)
    ∧ Fits s.build.widths.cntW (s.txn.nclk + 1)

/-! ### Groups of instructions -/

/-- The command rows. -/
def isCommandRow : Instr → Bool
  | .read => true
  | .fastRead => true
  | .quadRead => true
  | .en4b => true
  | .ex4b => true
  | .control _ => true
  | .unrecognized _ => true
  | .evEos _ => false
  | .evPrime _ => false
  | .evCsAssert _ => false
  | .beginFresh _ => false
  | .beginCont _ => false
  | .evCsDeassert _ => false
  | .evClk => false
  | .singleEdge => false
  | .quadHigh => false
  | .quadLow => false
  | .evNone _ => false

/-- The data-command rows with their overhead (R119 to R121). -/
def dataRows : List (Instr × Nat) := [(.read, 0), (.fastRead, 1), (.quadRead, 2)]

/-- The toggle rows with the width they write (R129, R130). -/
def toggleRows : List (Instr × BitVec 3) := [(.en4b, 4#3), (.ex4b, 3#3)]

/-- The single sampling edges of the lane assembler (R88, R91, R92). -/
def assemblerRows : List Instr := [.singleEdge, .quadHigh, .quadLow]

/-- Sampling edges in a row: each is SINGLE_EDGE on a sample with the given timestamp and lines. -/
def singleEdges : List (Nat × Lines) → State → Host.Outcome State Fault Refusal
  | [], s => .next s
  | (t, l) :: rest, s =>
    match exec .singleEdge { s with io := { s.io with smp := { ts := t, eos := false, lines := l } } } with
    | .next s' => singleEdges rest s'
    | .fault f => .fault f
    | .refused r => .refused r

/-! ### Successors -/

/-- The step answers this next state. -/
def Steps (s t : State) : Prop := step s = .next t

/-- The next item is a sample. -/
def State.nextSample (s : State) (smp : Sample) (rest : List PortInput) : Prop := s.io.input = .sample smp :: rest

/-- A sample is processed in this step: no fault, not halted, and its timestamp passes the check of R157. -/
def State.processes (s : State) (smp : Sample) : Prop :=
  s.rc.fault = false ∧ s.rc.halted = false ∧ (smp.eos = true ∨ s.ed.primed = false ∨ s.ed.lastTs < smp.ts)

end Sys2Proof.Machine
end

