-- ==== Sys2Proof/Certificates/Slice0/Obligations.lean ====
section
/-! DEFINITION. The statements for the provers. Each docstring names the rule of spec/ the statement follows. -/

open Sys2Proof Sys2Proof.Machine

/-! ### Decoding and the step -/

/-- R76, R161: when a sample is processed, the step is the decoded instruction, run on the state with the sample on the port.
Putting it there changes only the ports. -/
def Obligations.StepRunsTheDecodedInstruction : Prop :=
  ∀ (s : State) (smp : Sample) (rest : List PortInput) (i : Instr),
    s.nextSample smp rest → s.processes smp →
    decode s.build.tables (.vector (s.present smp rest).eventVector) = .ok i →
    step s = exec i (s.present smp rest)
      ∧ s.present smp rest = { s with io := { smp := smp, bev := none, aev := none, input := rest, trace := s.io.trace } }

/-- R58: the seven bits of the event vector. That bit 0 is SCLK XOR (CPOL XOR CPHA) is the general-knowledge choice K1 of R57
(PRESUMED, log 21). -/
def Obligations.EventVectorBits : Prop :=
  ∀ s : State,
    bitAt s.eventVector 6 = s.io.smp.eos
      ∧ bitAt s.eventVector 5 = s.ed.primed
      ∧ bitAt s.eventVector 4 = decide (s.fsm = .cmdPhase ∨ s.fsm = .dataPhase)
      ∧ bitAt s.eventVector 3 = s.ed.csaPrev
      ∧ bitAt s.eventVector 2 = decide (bitAt s.io.smp.lines 0 = s.cfg.csActive)
      ∧ bitAt s.eventVector 1 = s.ed.sPrev
      ∧ bitAt s.eventVector 0 = (bitAt s.io.smp.lines 1 ^^ (s.cfg.cpol ^^ s.cfg.cpha))

/-- R59: the first matching row decides the class; the patterns bit by bit, in the order of priority. -/
def Obligations.EventClassesByPriority : Prop :=
  ∀ ev : EventVector,
    (bitAt ev 6 = true → ∃ x, decodeVector ev = .evEos x)
      ∧ (bitAt ev 6 = false → bitAt ev 5 = false → ∃ x, decodeVector ev = .evPrime x)
      ∧ (bitAt ev 6 = false → bitAt ev 5 = true → bitAt ev 4 = false → bitAt ev 3 = false → bitAt ev 2 = true →
          ∃ x, decodeVector ev = .evCsAssert x)
      ∧ (bitAt ev 6 = false → bitAt ev 5 = true → bitAt ev 4 = true → bitAt ev 3 = true → bitAt ev 2 = false →
          ∃ x, decodeVector ev = .evCsDeassert x)
      ∧ (bitAt ev 6 = false → bitAt ev 5 = true → bitAt ev 4 = true → bitAt ev 3 = true → bitAt ev 2 = true →
          bitAt ev 1 = false → bitAt ev 0 = true → decodeVector ev = .evClk)
      ∧ (bitAt ev 6 = false → bitAt ev 5 = true → bitAt ev 4 = false → (bitAt ev 3 = true ∨ bitAt ev 2 = false) →
          decodeVector ev = .evNone ev)
      ∧ (bitAt ev 6 = false → bitAt ev 5 = true → bitAt ev 4 = true → bitAt ev 3 = false → decodeVector ev = .evNone ev)
      ∧ (bitAt ev 6 = false → bitAt ev 5 = true → bitAt ev 4 = true → bitAt ev 3 = true → bitAt ev 2 = true →
          (bitAt ev 1 = true ∨ bitAt ev 0 = false) → decodeVector ev = .evNone ev)

/-- R62: the command map with the default tables, for all 256 bytes. The byte 0xE9 of EX4B is the spec's general-knowledge
choice K3 (log 21). -/
def Obligations.StandardCommandMap : Prop :=
  ∀ c : Byte, decode Tables.standard (.command c) =
    .ok (if c = 0x03#8 then .read else if c = 0x0B#8 then .fastRead else if c = 0xEB#8 then .quadRead
      else if c = 0xB7#8 then .en4b else if c = 0xE9#8 then .ex4b else .unrecognized c)

/-- Words of spec/opcode_table.json, written out from the patterns of R59 and the bytes of R119 to R130.
Which of a shared word's readings decodeTableWord takes is the model's choice (log 4); 0xE9 is the choice K3 (log 21). -/
def Obligations.DecodesTheWordsOfTheTable : Prop :=
  decodeTableWord 8 0x03 = some .read ∧ decodeTableWord 8 0x0B = some .fastRead ∧ decodeTableWord 8 0xEB = some .quadRead
    ∧ decodeTableWord 8 0xB7 = some .en4b ∧ decodeTableWord 8 0xE9 = some .ex4b
    ∧ decodeTableWord 8 0x9F = some (.unrecognized 0x9F#8)
    ∧ decodeTableWord 8 0b01000000 = some (.evEos 0#6) ∧ decodeTableWord 8 0b00000000 = some (.evPrime 0#5)
    ∧ decodeTableWord 8 0b00100110 = some (.evCsAssert 0b10#2) ∧ decodeTableWord 8 0b00111001 = some (.evCsDeassert 0b01#2)
    ∧ decodeTableWord 8 0b00111101 = some .evClk ∧ decodeTableWord 8 0b00111100 = some (.evNone 0b0111100#7)
    ∧ decode Tables.standard (.split 0b0100110#7 (.cont false)) = .ok (.beginFresh 0b10#2)
    ∧ decode Tables.standard (.split 0b0100110#7 (.cont true)) = .ok (.beginCont 0b10#2)
    ∧ decode Tables.standard (.split 0b0111101#7 .single) = .ok .singleEdge
    ∧ decode Tables.standard (.split 0b0111101#7 (.quad false)) = .ok .quadHigh
    ∧ decode Tables.standard (.split 0b0111101#7 (.quad true)) = .ok .quadLow

/-- R58 to R62: no bit of an encoding is dropped, for every instruction, whatever the tables of the build. -/
def Obligations.DecodeEncodeRoundTrip : Prop :=
  ∀ (t : Tables) (i : Instr), i.wellFormed t = true → decode t (encode t i) = .ok i

/-- The other direction: a code word that decodes is the encoding of what it decodes to, and that is well-formed. -/
def Obligations.EncodeDecodeRoundTrip : Prop :=
  ∀ (t : Tables) (c : Code) (i : Instr), decode t c = .ok i → encode t i = c ∧ i.wellFormed t = true

/-- R76 first line, R38, R156: after a fault or the end of stream a sample changes no register and emits no record. -/
def Obligations.StoppedBlockIgnoresSamples : Prop :=
  ∀ (s : State) (smp : Sample) (rest : List PortInput),
    s.nextSample smp rest → (s.rc.fault = true ∨ s.rc.halted = true) →
    step s = .next { s with io := { smp := smp, bev := none, aev := none, input := rest, trace := s.io.trace } }

/-- R157: the timestamp check comes before the event class, writes fault and fault_code 1, and nothing else. -/
def Obligations.NonIncreasingTimestampFaults : Prop :=
  ∀ (s : State) (smp : Sample) (rest : List PortInput),
    s.nextSample smp rest → s.rc.fault = false → s.rc.halted = false → smp.eos = false → s.ed.primed = true →
    smp.ts ≤ s.ed.lastTs →
    step s = .next { s with
      rc := { s.rc with fault := true, faultCode := 1#4 }
      io := { smp := smp, bev := none, aev := none, input := rest, trace := s.io.trace } }

/-- R139: a step without a valid sample changes no state; only the output ports show nothing. That this is a step of the
machine, and that a run with nothing more to come goes on so, is read by inference (log 5). -/
def Obligations.StepWithoutSampleChangesNothing : Prop :=
  ∀ (s : State) (rest : List PortInput),
    (s.io.input = [] → step s = .next { s with io := { s.io with bev := none, aev := none } })
      ∧ (s.io.input = .noSample :: rest →
          step s = .next { s with io := { s.io with bev := none, aev := none, input := rest } })

/-! ### Reset -/

/-- R166: what reset leaves, for every accepted configuration, in the registers the rule gives a value; the registers it
leaves unspecified are not named here. -/
def Obligations.ResetValues : Prop :=
  ∀ (b : Build) (c : Configuration),
    (State.resetWith b c).cfg = c ∧ (State.resetWith b c).build = b
      ∧ (State.resetWith b c).ses = { aw := c.awInit, cont := false }
      ∧ (State.resetWith b c).txn.cmdValid = false ∧ (State.resetWith b c).txn.quadEn = false
      ∧ (State.resetWith b c).txn.dc = 0 ∧ (State.resetWith b c).txn.pos = 0 ∧ (State.resetWith b c).txn.isCont = false
      ∧ (State.resetWith b c).txn.mosiSeq = [] ∧ (State.resetWith b c).txn.misoSeq = [] ∧ (State.resetWith b c).txn.nclk = 0
      ∧ (State.resetWith b c).la.saccMosi = 0x00#8 ∧ (State.resetWith b c).la.saccMiso = 0x00#8
      ∧ (State.resetWith b c).la.sbits = 0#4 ∧ (State.resetWith b c).la.qhi = 0x0#4 ∧ (State.resetWith b c).la.qhalf = false
      ∧ (State.resetWith b c).ed.primed = false ∧ (State.resetWith b c).fsm = .idle
      ∧ (State.resetWith b c).rc =
          (if configValid b c then { halted := false, fault := false, faultCode := 0#4 }
            else { halted := false, fault := true, faultCode := 4#4 })

/-- R155: the block refuses a configuration exactly when one of the listed conditions holds, and then processes no sample.
That every pair of a table's list is checked, a second pair of one key too, is the model's choice (log 14). -/
def Obligations.ConfigurationCheck : Prop :=
  ∀ (b : Build) (c : Configuration),
    (((State.resetWith b c).rc.fault = true ∧ (State.resetWith b c).rc.faultCode = 4#4) ↔
      (c.wordSize ≠ 8#8
        ∨ ¬(c.awInit = 1#3 ∨ c.awInit = 2#3 ∨ c.awInit = 3#3 ∨ c.awInit = 4#3)
        ∨ (∃ k, (b.tables.data.lookup k).isSome ∧ (b.tables.toggle.lookup k).isSome)
        ∨ (∃ k, (b.tables.data.lookup k).isSome ∧ (b.tables.ctrl.lookup k).isSome)
        ∨ (∃ k, (b.tables.toggle.lookup k).isSome ∧ (b.tables.ctrl.lookup k).isSome)
        ∨ (∃ e ∈ b.tables.data, e.2.lane ≠ 1 ∧ e.2.lane ≠ 4)
        ∨ (∃ e ∈ b.tables.data, e.2.lane = 4 ∧ b.tables.quad.lookup e.1 = none)
        ∨ (∃ q ∈ b.tables.quad, ¬∃ d, b.tables.data.lookup q.1 = some d ∧ d.lane = 4)
        ∨ (∃ q ∈ b.tables.quad, q.2 % 2 = 1 ∨ ∃ d, b.tables.data.lookup q.1 = some d ∧ d.overhead ≠ q.2 / 2)
        ∨ (∃ e ∈ b.tables.toggle,
            ¬(e.2.newAw = 1 ∨ e.2.newAw = 2 ∨ e.2.newAw = 3 ∨ e.2.newAw = 4))))
      ∧ ∀ (smp : Sample) (rest : List PortInput), configValid b c = false →
          step { State.resetWith b c with io := { (State.resetWith b c).io with input := .sample smp :: rest } } =
            .next { State.resetWith b c with io := { (State.resetWith b c).io with smp := smp, input := rest } }

/-- R167, R169: a reset discards everything, the open transaction, aw, cont and the carried prefix included, and latches the
configuration. The exact next state rests on the model's choices too: a step with a reset takes no sample, the rest of the
input and the build stay (DESIGN CHOICE, log 13); `State.resetWith` puts the registers that R166 leaves unspecified (log 1),
the sample port (log 17) and the counter of free values (log 2) at values the model names; the log of records starts anew
(log 7). -/
def Obligations.ResetDuringARun : Prop :=
  ∀ (s : State) (c : Configuration) (rest : List PortInput),
    s.io.input = .reset c :: rest →
    step s = .next { State.resetWith s.build c with io := { (State.resetWith s.build c).io with input := rest } }

/-! ### Event classes -/

/-- R63, R138, R151, R156: no instruction and no step stops the machine; what the spec calls a fault is a next state (log 6). -/
def Obligations.NothingStopsTheMachine : Prop :=
  (∀ (s : State) (i : Instr), ∃ t, exec i s = .next t) ∧ ∀ s : State, ∃ t, step s = .next t

/-- R85: EV_EOS sets halted and writes nothing else. -/
def Obligations.EndOfStreamHalts : Prop :=
  ∀ (s : State) (x : BitVec 6), exec (.evEos x) s = .next { s with rc := { s.rc with halted := true } }

/-- R77, R84: EV_PRIME and EV_NONE write the edge-detector registers and nothing else; the writes at the end of R76 are part
of a class's meaning (log 18). That s_prev takes SCLK XOR (CPOL XOR CPHA) is the choice K1 of R57 (PRESUMED, log 21). -/
def Obligations.PrimeAndNoneLatchTheSample : Prop :=
  ∀ (s : State) (x : BitVec 5) (ev : EventVector) (t : State),
    t = { s with ed :=
      { primed := true, csaPrev := decide (bitAt s.io.smp.lines 0 = s.cfg.csActive)
        sPrev := bitAt s.io.smp.lines 1 ^^ (s.cfg.cpol ^^ s.cfg.cpha), lastTs := s.io.smp.ts } } →
    exec (.evPrime x) s = .next t ∧ exec (.evNone ev) s = .next t

/-- R102: BeginFresh, every register it writes and nothing else. -/
def Obligations.BeginFreshOpensATransaction : Prop :=
  ∀ (s : State) (clk : BitVec 2),
    exec (.beginFresh clk) s = .next { s with
      txn := { s.txn with startTs := s.io.smp.ts, mosiSeq := [], misoSeq := [], nclk := 0, cmdValid := false, quadEn := false,
                          dc := 0, pos := 0, isCont := false }
      la := { s.la with saccMosi := 0#8, saccMiso := 0#8, sbits := 0#4, qhi := 0#4, qhalf := false }
      fsm := .cmdPhase }

/-- R103: BeginCont, every register it writes and nothing else. -/
def Obligations.BeginContResumesTheCommand : Prop :=
  ∀ (s : State) (clk : BitVec 2),
    exec (.beginCont clk) s = .next { s with
      txn := { s.txn with startTs := s.io.smp.ts, mosiSeq := [.byte s.txn.cmd], misoSeq := [.byte s.txn.cmd], nclk := 0,
                          pos := 8, isCont := true }
      la := { s.la with saccMosi := 0#8, saccMiso := 0#8, sbits := 0#4, qhi := 0#4, qhalf := false }
      fsm := .dataPhase }

/-- R80, R59: EV_CS_ASSERT is its split by cont, followed by the register writes at the end of the step (R76). -/
def Obligations.AssertionRunsItsSplit : Prop :=
  ∀ (s : State) (clk : BitVec 2) (i : Instr),
    decode s.build.tables (.split (0b01001#5 ++ clk) (.cont s.ses.cont)) = .ok i →
    ∃ t, exec i s = .next t ∧ exec (.evCsAssert clk) s = .next { t with ed :=
      { primed := true, csaPrev := s.csaNow, sPrev := s.sNow, lastTs := s.io.smp.ts } }

/-- R113: a degenerate window emits no annotation, calls no interpreter and writes no session register. -/
def Obligations.DegenerateWindowIsSkipped : Prop :=
  ∀ (s : State) (clk : BitVec 2), s.txn.nclk = 0 →
    exec (.evCsDeassert clk) s = .next { s with
      txn := { s.txn with endTs := s.io.smp.ts }
      la := { s.la with saccMosi := 0#8, saccMiso := 0#8, sbits := 0#4, qhi := 0#4, qhalf := false }
      fsm := if s.ses.cont then .contPending else .idle
      ed := { primed := true, csaPrev := s.csaNow, sPrev := s.sNow, lastTs := s.io.smp.ts } }

/-- R114, R134: EV_CS_DEASSERT of a window with a whole byte runs the command row that the tables give for cmd, on the state
with the partial byte cleared and end_ts written; then the fsm is chosen by cont and the edge registers are written. That
the interpreter sees the end_ts of this step is log 16. -/
def Obligations.DeassertionRunsTheCommand : Prop :=
  ∀ (s : State) (clk : BitVec 2) (i : Instr), 0 < s.txn.nclk →
    decode s.build.tables (.command s.txn.cmd) = .ok i →
    ∃ t,
      exec i { s with
        txn := { s.txn with endTs := s.io.smp.ts }
        la := { s.la with saccMosi := 0#8, saccMiso := 0#8, sbits := 0#4, qhi := 0#4, qhalf := false } } = .next t
      ∧ t.ses.cont = s.ses.cont
      ∧ exec (.evCsDeassert clk) s = .next { t with
          fsm := if s.ses.cont then .contPending else .idle
          ed := { primed := true, csaPrev := s.csaNow, sPrev := s.sNow, lastTs := s.io.smp.ts } }

/-- R97: a chip-select edge clears the partial byte; at a deassertion no entry is appended and no byte is reported. -/
def Obligations.PartialByteIsDiscarded : Prop :=
  ∀ (s t : State) (clk : BitVec 2),
    (exec (.evCsAssert clk) s = .next t →
      t.la = { saccMosi := 0#8, saccMiso := 0#8, sbits := 0#4, qhi := 0#4, qhalf := false, bstart := s.la.bstart }
        ∧ t.io.bev = s.io.bev)
      ∧ (exec (.evCsDeassert clk) s = .next t →
        t.la = { saccMosi := 0#8, saccMiso := 0#8, sbits := 0#4, qhi := 0#4, qhalf := false, bstart := s.la.bstart }
          ∧ t.io.bev = s.io.bev ∧ t.txn.mosiSeq = s.txn.mosiSeq ∧ t.txn.misoSeq = s.txn.misoSeq)

/-! ### The lane assembler -/

/-- R88: a sampling edge that does not complete a byte shifts both lanes, left for MSB first and right for LSB first. -/
def Obligations.SingleEdgeShiftsBothLanes : Prop :=
  ∀ s : State, s.la.sbits ≠ 7#4 →
    exec .singleEdge s = .next { s with la := { s.la with
      bstart := if s.la.sbits = 0#4 then s.io.smp.ts else s.la.bstart
      saccMosi :=
        if s.cfg.bitOrder then (s.la.saccMosi >>> 1) ||| (if bitAt s.io.smp.lines 2 then 0x80#8 else 0x00#8)
        else (s.la.saccMosi <<< 1) ||| (if bitAt s.io.smp.lines 2 then 0x01#8 else 0x00#8)
      saccMiso :=
        if s.cfg.bitOrder then (s.la.saccMiso >>> 1) ||| (if bitAt s.io.smp.lines 3 then 0x80#8 else 0x00#8)
        else (s.la.saccMiso <<< 1) ||| (if bitAt s.io.smp.lines 3 then 0x01#8 else 0x00#8)
      sbits := s.la.sbits + 1#4 } }

/-- R88, R89, R95: the eighth edge appends a byte to both buffers, emits one byte record and clears the accumulators. -/
def Obligations.EighthEdgeCompletesAByte : Prop :=
  ∀ s : State, s.la.sbits = 7#4 → s.ByteFits →
    ∃ (m b : Byte) (r : ByteRecord),
      m = (if s.cfg.bitOrder then (s.la.saccMosi >>> 1) ||| (if bitAt s.io.smp.lines 2 then 0x80#8 else 0x00#8)
        else (s.la.saccMosi <<< 1) ||| (if bitAt s.io.smp.lines 2 then 0x01#8 else 0x00#8))
      ∧ b = (if s.cfg.bitOrder then (s.la.saccMiso >>> 1) ||| (if bitAt s.io.smp.lines 3 then 0x80#8 else 0x00#8)
        else (s.la.saccMiso <<< 1) ||| (if bitAt s.io.smp.lines 3 then 0x01#8 else 0x00#8))
      ∧ r = { startTs := s.la.bstart, endTs := s.io.smp.ts, idx := s.txn.mosiSeq.length, path := .single
              mosi := .byte m, miso := .byte b, phase := s.phaseOf s.txn.mosiSeq.length }
      ∧ exec .singleEdge s = .next { s with
          txn := { s.txn with mosiSeq := s.txn.mosiSeq ++ [.byte m], misoSeq := s.txn.misoSeq ++ [.byte b]
                              nclk := s.txn.nclk + 1 }
          la := { s.la with saccMosi := 0x00#8, saccMiso := 0x00#8, sbits := 0#4 }
          io := { s.io with bev := some r, trace := s.io.trace ++ [.byte r] } }

/-- R88, corner cases: after eight edges from a byte boundary, whatever the accumulators held, the first sampled bit is bit 7
of the byte when BIT_ORDER = 0 and bit 0 when BIT_ORDER = 1, on both lanes. The record spans the first to the last edge. -/
def Obligations.EightEdgesAssembleAByte : Prop :=
  ∀ (s : State) (es : List (Nat × Lines)), es.length = 8 → s.la.sbits = 0#4 → s.ByteFits →
    ∃ (t : State) (m b : Byte),
      singleEdges es s = .next t
      ∧ t.txn.mosiSeq = s.txn.mosiSeq ++ [.byte m] ∧ t.txn.misoSeq = s.txn.misoSeq ++ [.byte b]
      ∧ t.la.sbits = 0#4 ∧ t.txn.nclk = s.txn.nclk + 1
      ∧ (∀ (k : Nat) (h : k < es.length),
          bitAt m (if s.cfg.bitOrder then k else 7 - k) = bitAt es[k].2 2
            ∧ bitAt b (if s.cfg.bitOrder then k else 7 - k) = bitAt es[k].2 3)
      ∧ ∃ r, t.io.bev = some r ∧ r.mosi = .byte m ∧ r.miso = .byte b ∧ r.idx = s.txn.mosiSeq.length
          ∧ es.head?.map (fun e => e.1) = some r.startTs ∧ es.getLast?.map (fun e => e.1) = some r.endTs

/-- R91: QUAD_HIGH holds the nibble and appends nothing. That IO3 is the nibble's top bit is the general-knowledge choice K2 of
R64 (PRESUMED, log 21). -/
def Obligations.QuadHighHoldsTheNibble : Prop :=
  ∀ s : State, s.cfg.hasQuad = true →
    exec .quadHigh s = .next { s with
      la := { s.la with qhi := s.io.smp.lines.extractLsb' 2 4, qhalf := true, bstart := s.io.smp.ts } }

/-- R92, R94, R96: QUAD_LOW completes the byte with the held nibble high; up to clock position 15 it goes to MOSI, after it to
MISO, and the other lane gets the placeholder. That IO3 is the top bit of each nibble is the choice K2 of R64 (PRESUMED, log 21). -/
def Obligations.QuadLowCompletesTheByte : Prop :=
  ∀ s : State, s.cfg.hasQuad = true → s.ByteFits →
    ∃ (em es : Entry) (r : ByteRecord),
      (s.txn.pos ≤ 15 → em = .byte (s.la.qhi ++ s.io.smp.lines.extractLsb' 2 4) ∧ es = .empty)
      ∧ (15 < s.txn.pos → em = .empty ∧ es = .byte (s.la.qhi ++ s.io.smp.lines.extractLsb' 2 4))
      ∧ r = { startTs := s.la.bstart, endTs := s.io.smp.ts, idx := s.txn.mosiSeq.length, path := .quad
              mosi := em, miso := es, phase := s.phaseOf s.txn.mosiSeq.length }
      ∧ exec .quadLow s = .next { s with
          txn := { s.txn with mosiSeq := s.txn.mosiSeq ++ [em], misoSeq := s.txn.misoSeq ++ [es], nclk := s.txn.nclk + 1 }
          la := { s.la with qhi := 0x0#4, qhalf := false }
          io := { s.io with bev := some r, trace := s.io.trace ++ [.byte r] } }

/-- R90, R158: with IO2 and IO3 absent a quad edge faults with code 2 before anything is written. -/
def Obligations.AbsentQuadLinesFault : Prop :=
  ∀ s t : State, s.cfg.hasQuad = false → t = { s with rc := { s.rc with fault := true, faultCode := 2#4 } } →
    exec .quadHigh s = .next t ∧ exec .quadLow s = .next t
      ∧ (s.txn.quadEn = true → s.txn.qs.toNat ≤ s.txn.pos → exec .evClk s = .next t)

/-- What the lane assembler's edges leave unchanged: every register but its own, the buffers and nclk; and every entry that
was in a buffer reads as before. QUAD_HIGH stores nothing. -/
def Obligations.AssemblerFrame : Prop :=
  ∀ (s t : State) (i : Instr), i ∈ assemblerRows → exec i s = .next t →
    t.cfg = s.cfg ∧ t.build = s.build ∧ t.ses = s.ses ∧ t.ed = s.ed ∧ t.fsm = s.fsm ∧ t.free = s.free
      ∧ t.rc.halted = s.rc.halted ∧ t.io.smp = s.io.smp ∧ t.io.aev = s.io.aev ∧ t.io.input = s.io.input
      ∧ t.txn = { s.txn with mosiSeq := t.txn.mosiSeq, misoSeq := t.txn.misoSeq, nclk := t.txn.nclk }
      ∧ (∀ k, k < s.txn.mosiSeq.length → t.mosiEntry k = s.mosiEntry k)
      ∧ (∀ k, k < s.txn.misoSeq.length → t.misoEntry k = s.misoEntry k)
      ∧ (i = .quadHigh → t.txn = s.txn ∧ t.io.bev = s.io.bev ∧ t.io.trace = s.io.trace)

/-! ### Clocking a transaction -/

/-- R105, R60: EV_CLK, away from the command capture and the continuation check, is its split by path and half, followed by
the increment of pos and the writes at the end of the step. -/
def Obligations.ClockEdgeRunsItsSplit : Prop :=
  ∀ (s t : State) (i : Instr),
    decode s.build.tables (.split 0b0111101#7 (if s.txn.quadEn = true ∧ s.txn.qs.toNat ≤ s.txn.pos then .quad s.la.qhalf else .single))
      = .ok i →
    exec i s = .next t → s.rc.fault = false → t.rc.fault = false → Fits s.build.widths.posW (s.txn.pos + 1) →
    ¬(i = .singleEdge ∧ s.txn.pos = 7 ∧ s.txn.isCont = false) → ¬(i = .quadLow ∧ s.txn.pos = 15 ∧ 0 < s.txn.dc) →
    exec .evClk s = .next { t with
      txn := { t.txn with pos := s.txn.pos + 1 }
      ed := { primed := true, csaPrev := s.csaNow, sPrev := s.sNow, lastTs := s.io.smp.ts } }

/-- R106, R107: the edge at clock position 7 of a fresh transaction captures the MOSI byte it completes as the command, enters
DATA_PHASE, and declares quad mode with start 8 and the table's dummy count when the QUAD_TABLE has the byte. -/
def Obligations.CommandIsCapturedAtPosition7 : Prop :=
  ∀ s : State, ¬(s.txn.quadEn = true ∧ s.txn.qs.toNat ≤ s.txn.pos) → s.txn.pos = 7 → s.txn.isCont = false →
    s.la.sbits = 7#4 → s.ByteFits → Fits s.build.widths.posW 8 →
    ∃ (m : Byte) (t : State),
      exec .singleEdge s = .next t ∧ t.txn.mosiSeq = s.txn.mosiSeq ++ [.byte m]
      ∧ exec .evClk s = .next { t with
          txn := { t.txn with
            cmd := m, cmdValid := true, pos := 8
            quadEn := (s.build.tables.quad.lookup m).isSome || s.txn.quadEn
            qs := if (s.build.tables.quad.lookup m).isSome then 8#4 else s.txn.qs
            dc := (s.build.tables.quad.lookup m).getD s.txn.dc }
          fsm := .dataPhase
          ed := { primed := true, csaPrev := s.csaNow, sPrev := s.sNow, lastTs := s.io.smp.ts } }

/-- R110: at clock position 15 the high nibble of the quad byte decides cont, set when it is 0xA and cleared otherwise. -/
def Obligations.ContinuationCheckAtPosition15 : Prop :=
  ∀ s : State, s.txn.quadEn = true → s.txn.qs.toNat ≤ s.txn.pos → s.cfg.hasQuad = true → s.la.qhalf = true →
    s.txn.pos = 15 → 0 < s.txn.dc → s.ByteFits → Fits s.build.widths.posW 16 →
    ∃ t : State,
      exec .quadLow s = .next t
      ∧ exec .evClk s = .next { t with
          ses := { s.ses with cont := decide (s.la.qhi = 0xA#4) }
          txn := { t.txn with pos := 16 }
          ed := { primed := true, csaPrev := s.csaNow, sPrev := s.sNow, lastTs := s.io.smp.ts } }

/-- R159, R161: with a finite counter, an edge that would overflow pos, or a completion that would overflow a byte count,
faults with code 3 and writes nothing else: no byte completes. Which lengths are checked is log 9. -/
def Obligations.CounterOverflowFaults : Prop :=
  ∀ s t : State, t = { s with rc := { s.rc with fault := true, faultCode := 3#4 } } →
    (s.cfg.hasQuad = true ∨ ¬(s.txn.quadEn = true ∧ s.txn.qs.toNat ≤ s.txn.pos) →
      ¬Fits s.build.widths.posW (s.txn.pos + 1) → exec .evClk s = .next t)
    ∧ (s.la.sbits = 7#4 → ¬s.ByteFits → exec .singleEdge s = .next t
        ∧ (¬(s.txn.quadEn = true ∧ s.txn.qs.toNat ≤ s.txn.pos) → exec .evClk s = .next t))
    ∧ (s.cfg.hasQuad = true → ¬s.ByteFits → exec .quadLow s = .next t
        ∧ (s.txn.quadEn = true → s.txn.qs.toNat ≤ s.txn.pos → s.la.qhalf = true → exec .evClk s = .next t))

/-- R159: with unbounded counters no instruction raises COUNTER_OVERFLOW. -/
def Obligations.UnboundedCountersNeverOverflow : Prop :=
  ∀ (s t : State) (i : Instr), s.build.widths.posW = none → s.build.widths.cntW = none → exec i s = .next t →
    t.rc.faultCode = 3#4 → s.rc.faultCode = 3#4

/-! ### The command interpreter -/

/-- R119 to R121 over R122, R44, R124, R125: a data command whose address lies in the filter is annotated with its big-endian
start address, the count T - 1 - aw - overhead and the end address, and nothing else changes. -/
def Obligations.DataCommandResult : Prop :=
  ∀ (s : State) (i : Instr) (ovh : Nat) (e0 : Entry) (vs : List Byte) (rest : List Entry) (a : Nat) (n : Int) (r : AnnRecord),
    (i, ovh) ∈ dataRows → s.txn.mosiSeq = e0 :: (vs.map Entry.byte ++ rest) → vs.length = s.ses.aw.toNat →
    a = vs.foldl (fun acc v => acc * 256 + v.toNat) 0 → s.cfg.minAddr.toNat ≤ a → a ≤ s.cfg.maxAddr.toNat →
    n = (s.txn.mosiSeq.length : Int) - 1 - s.ses.aw.toNat - ovh →
    r = { cat := .dataCommand, kind := .dataCmd, cmd := s.txn.cmd, cont := s.txn.isCont, startTs := s.txn.startTs
          endTs := s.txn.endTs, aw := s.ses.aw
          range := some { addrStart := BitVec.ofNat 32 a, count := n, addrEnd := (a : Int) + n - 1 } } →
    exec i s = .next { s with io := { s.io with aev := some r, trace := s.io.trace ++ [.ann r] } } ∧ a < 2 ^ 32

/-- R123: a data command with fewer than 1 + aw entries gives the truncated record, whatever the filter. -/
def Obligations.TruncatedDataCommand : Prop :=
  ∀ (s : State) (i : Instr) (ovh : Nat) (r : AnnRecord),
    (i, ovh) ∈ dataRows → s.txn.mosiSeq.length < 1 + s.ses.aw.toNat →
    r = { cat := .error, kind := .truncated, cmd := s.txn.cmd, cont := s.txn.isCont, startTs := s.txn.startTs
          endTs := s.txn.endTs, aw := s.ses.aw, range := none } →
    exec i s = .next { s with io := { s.io with aev := some r, trace := s.io.trace ++ [.ann r] } }

/-- R127: a start address below MIN_ADDR or above MAX_ADDR suppresses the annotation; nothing changes. -/
def Obligations.FilteredDataCommand : Prop :=
  ∀ (s : State) (i : Instr) (ovh : Nat) (e0 : Entry) (vs : List Byte) (rest : List Entry) (a : Nat),
    (i, ovh) ∈ dataRows → s.txn.mosiSeq = e0 :: (vs.map Entry.byte ++ rest) → vs.length = s.ses.aw.toNat →
    a = vs.foldl (fun acc v => acc * 256 + v.toNat) 0 → (a < s.cfg.minAddr.toNat ∨ s.cfg.maxAddr.toNat < a) →
    exec i s = .next s

/-- R122 at the deassertion, for every entry a build may put in the DATA_TABLE: the record that leaves the block. -/
def Obligations.DataWindowIsAnnotated : Prop :=
  ∀ (s : State) (clk : BitVec 2) (d : DataEntry) (e0 : Entry) (vs : List Byte) (rest : List Entry) (a : Nat),
    0 < s.txn.nclk → s.build.tables.data.lookup s.txn.cmd = some d →
    s.txn.mosiSeq = e0 :: (vs.map Entry.byte ++ rest) → vs.length = s.ses.aw.toNat →
    a = vs.foldl (fun acc v => acc * 256 + v.toNat) 0 → s.cfg.minAddr.toNat ≤ a → a ≤ s.cfg.maxAddr.toNat →
    ∃ t, exec (.evCsDeassert clk) s = .next t
      ∧ t.io.aev = some { cat := .dataCommand, kind := .dataCmd, cmd := s.txn.cmd, cont := s.txn.isCont
                          startTs := s.txn.startTs, endTs := s.io.smp.ts, aw := s.ses.aw
                          range := some { addrStart := BitVec.ofNat 32 a, count := (rest.length : Int) - d.overhead
                                          addrEnd := (a : Int) + ((rest.length : Int) - d.overhead) - 1 } }
      ∧ t.ses = s.ses

/-- R44: the address of n bytes has n base-256 digits, the first entry the most significant; so it fits 8 * aw bits. -/
def Obligations.AddressIsBigEndian : Prop :=
  ∀ (s : State) (vs : List Byte),
    (assembleAddr (vs.map Entry.byte) 0 s).2 = s
      ∧ (assembleAddr (vs.map Entry.byte) 0 s).1 < 2 ^ (8 * vs.length)
      ∧ ∀ (k : Nat) (h : k < vs.length),
          (assembleAddr (vs.map Entry.byte) 0 s).1 / 256 ^ (vs.length - 1 - k) % 256 = vs[k].toNat

/-- R129, R130, R131: a toggle's record carries the old aw, and the new one is written after it; nothing else changes. -/
def Obligations.ToggleWritesTheWidthAfterTheRecord : Prop :=
  ∀ (s : State) (i : Instr) (w : BitVec 3) (r : AnnRecord), (i, w) ∈ toggleRows →
    r = { cat := .controlCommand, kind := .toggle, cmd := s.txn.cmd, cont := s.txn.isCont, startTs := s.txn.startTs
          endTs := s.txn.endTs, aw := s.ses.aw, range := none } →
    exec i s = .next { s with
      ses := { s.ses with aw := w }
      io := { s.io with aev := some r, trace := s.io.trace ++ [.ann r] } }

/-- R132, R133: a control command and an unrecognised byte are annotated under control-command and change nothing else. -/
def Obligations.ControlAndUnrecognizedRecords : Prop :=
  ∀ (s : State) (c : Byte) (r : AnnKind → AnnRecord),
    (∀ k, r k = { cat := .controlCommand, kind := k, cmd := c, cont := s.txn.isCont, startTs := s.txn.startTs
                  endTs := s.txn.endTs, aw := s.ses.aw, range := none }) →
    exec (.control c) s =
        .next { s with io := { s.io with aev := some (r .control), trace := s.io.trace ++ [.ann (r .control)] } }
      ∧ exec (.unrecognized c) s =
        .next { s with io := { s.io with aev := some (r .unrecognized), trace := s.io.trace ++ [.ann (r .unrecognized)] } }

/-- R138: what a command row leaves unchanged: everything but the annotation port, the log of records and, for a toggle, aw.
Both buffers read as before. -/
def Obligations.CommandFrame : Prop :=
  ∀ (s t : State) (i : Instr), isCommandRow i = true → exec i s = .next t →
    t.cfg = s.cfg ∧ t.build = s.build ∧ t.txn = s.txn ∧ t.la = s.la ∧ t.ed = s.ed ∧ t.fsm = s.fsm ∧ t.rc = s.rc
      ∧ t.io.smp = s.io.smp ∧ t.io.bev = s.io.bev ∧ t.io.input = s.io.input
      ∧ t.ses.cont = s.ses.cont ∧ (i ≠ .en4b → i ≠ .ex4b → t.ses.aw = s.ses.aw)
      ∧ (∀ k, t.mosiEntry k = s.mosiEntry k ∧ t.misoEntry k = s.misoEntry k)
      ∧ ((t.io.aev = s.io.aev ∧ t.io.trace = s.io.trace)
          ∨ ∃ r, t.io.aev = some r ∧ t.io.trace = s.io.trace ++ [.ann r])

/-- R136: the annotation does not depend on miso_seq, on the MOSI entries after the address, or on the byte's start. -/
def Obligations.AnnotationReadsOnlyTheAddress : Prop :=
  ∀ (s t t' : State) (clk : BitVec 2) (mosi miso : List Entry) (la : Lane),
    mosi.length = s.txn.mosiSeq.length → mosi.take (1 + s.ses.aw.toNat) = s.txn.mosiSeq.take (1 + s.ses.aw.toNat) →
    exec (.evCsDeassert clk) s = .next t →
    exec (.evCsDeassert clk) { s with txn := { s.txn with mosiSeq := mosi, misoSeq := miso }, la := la } = .next t' →
    t'.io.aev = t.io.aev ∧ t'.ses = t.ses ∧ t'.fsm = t.fsm

/-- R111: the tag of an entry by its index; R124: of the first T entries of a data command, T - 1 - aw - overhead are tagged
DATA (none if that is negative). -/
def Obligations.PhaseTags : Prop :=
  ∀ s : State,
    (s.build.tables.data.lookup s.txn.cmd = none → ∀ k, s.phaseOf k = if k = 0 then .cmd else .data)
      ∧ ∀ d : DataEntry, s.build.tables.data.lookup s.txn.cmd = some d →
        (∀ k, s.phaseOf k =
          if k = 0 then .cmd
          else if k ≤ s.ses.aw.toNat then .addr
          else if k ≤ s.ses.aw.toNat + d.overhead then .dummy
          else .data)
        ∧ ∀ n : Nat, ((List.range n).filter (fun k => s.phaseOf k = .data)).length = n - 1 - s.ses.aw.toNat - d.overhead

/-! ### Rules about the whole machine -/

/-- What an event class leaves unchanged: the configuration, the build, the sample and the input always; halted but for
EV_EOS; aw but for EV_CS_DEASSERT; cont but for EV_CLK; the buffers for every class that is no assertion and no edge. -/
def Obligations.EventFrame : Prop :=
  ∀ (s t : State) (ev : EventVector), exec (decodeVector ev) s = .next t →
    t.cfg = s.cfg ∧ t.build = s.build ∧ t.io.smp = s.io.smp ∧ t.io.input = s.io.input
      ∧ ((∀ x, decodeVector ev ≠ .evEos x) → t.rc.halted = s.rc.halted)
      ∧ ((∀ x, decodeVector ev ≠ .evCsDeassert x) → t.ses.aw = s.ses.aw ∧ t.io.aev = s.io.aev)
      ∧ (decodeVector ev ≠ .evClk → t.ses.cont = s.ses.cont ∧ t.rc.fault = s.rc.fault ∧ t.rc.faultCode = s.rc.faultCode
          ∧ t.io.bev = s.io.bev)
      ∧ (decodeVector ev ≠ .evClk → (∀ x, decodeVector ev ≠ .evCsAssert x) →
          ∀ k, t.mosiEntry k = s.mosiEntry k ∧ t.misoEntry k = s.misoEntry k)

/-- R156, R162: a step that sets fault leaves every register but fault and fault_code as it was, emits no record, and its
code is one of R154's. -/
def Obligations.FaultIsPrecise : Prop :=
  ∀ (s t : State) (smp : Sample) (rest : List PortInput), s.nextSample smp rest → Steps s t →
    s.rc.fault = false → t.rc.fault = true →
    t = { s with
      rc := { s.rc with fault := true, faultCode := t.rc.faultCode }
      io := { smp := smp, bev := none, aev := none, input := rest, trace := s.io.trace } }
    ∧ (t.rc.faultCode = 1#4 ∨ t.rc.faultCode = 2#4 ∨ t.rc.faultCode = 3#4)

/-- R142, R140, R141: one step presents at most one record, a byte record only on EV_CLK and an annotation only on
EV_CS_DEASSERT, and the log grows by exactly what is presented. -/
def Obligations.OneRecordPerStep : Prop :=
  ∀ (s t : State) (smp : Sample) (rest : List PortInput), s.nextSample smp rest → Steps s t →
    (t.io.bev = none ∨ t.io.aev = none)
      ∧ t.io.trace = s.io.trace ++ (t.io.bev.map Record.byte).toList ++ (t.io.aev.map Record.ann).toList
      ∧ (t.io.bev ≠ none → decodeVector (s.present smp rest).eventVector = .evClk)
      ∧ (t.io.aev ≠ none → ∃ x, decodeVector (s.present smp rest).eventVector = .evCsDeassert x)

/-- R24, R115: cont changes only in the continuation check, at clock position 15 of a quad transaction with a dummy window. -/
def Obligations.ContChangesOnlyInTheCheck : Prop :=
  ∀ (s t : State) (smp : Sample) (rest : List PortInput), s.nextSample smp rest → Steps s t → t.ses.cont ≠ s.ses.cont →
    decodeVector (s.present smp rest).eventVector = .evClk
      ∧ s.txn.quadEn = true ∧ s.txn.qs.toNat ≤ s.txn.pos ∧ s.la.qhalf = true ∧ s.txn.pos = 15 ∧ 0 < s.txn.dc
      ∧ t.ses.cont = decide (s.la.qhi = 0xA#4)

/-- R21, R131, R51: aw changes only at a deassertion, by a toggle command, and the record of that step carries the old aw.
A width of 8 or more, which R155 refuses, is left out of the value written (log 25). -/
def Obligations.WidthChangesOnlyByAToggle : Prop :=
  ∀ (s t : State) (smp : Sample) (rest : List PortInput), s.nextSample smp rest → Steps s t → t.ses.aw ≠ s.ses.aw →
    (∃ x, decodeVector (s.present smp rest).eventVector = .evCsDeassert x) ∧ 0 < s.txn.nclk
      ∧ ∃ g, s.build.tables.toggle.lookup s.txn.cmd = some g ∧ (g.newAw < 8 → t.ses.aw.toNat = g.newAw)
      ∧ ∃ r, t.io.aev = some r ∧ r.kind = .toggle ∧ r.aw = s.ses.aw

/-- R54: no step, whatever its input, changes the tables, so a command byte keeps its descriptor and its row. R167: only a
reset changes the configuration, to the one it brings. -/
def Obligations.TablesAndConfigurationAreFixed : Prop :=
  ∀ s t : State, Steps s t →
    t.build = s.build
      ∧ (∀ c : Byte, t.build.tables.kindOf c = s.build.tables.kindOf c
          ∧ decode t.build.tables (.command c) = decode s.build.tables (.command c))
      ∧ (t.cfg = s.cfg ∨ ∃ (c : Configuration) (rest : List PortInput), s.io.input = .reset c :: rest ∧ t.cfg = c)

/-- R104: the carried prefix changes only at a fresh assertion and at the capture, so never in a continuation transaction. -/
def Obligations.CarriedPrefixIsKept : Prop :=
  ∀ (s t : State) (smp : Sample) (rest : List PortInput), s.nextSample smp rest → Steps s t →
    ¬(t.txn.cmd = s.txn.cmd ∧ t.txn.cmdValid = s.txn.cmdValid ∧ t.txn.quadEn = s.txn.quadEn ∧ t.txn.qs = s.txn.qs
      ∧ t.txn.dc = s.txn.dc) →
    ((∃ x, decodeVector (s.present smp rest).eventVector = .evCsAssert x) ∧ s.ses.cont = false)
      ∨ (decodeVector (s.present smp rest).eventVector = .evClk ∧ s.txn.pos = 7 ∧ s.txn.isCont = false)

/-- R101: the transition table of fsm, from every consistent state; no other transition exists. -/
def Obligations.FsmTransitionTable : Prop :=
  ∀ (s t : State) (smp : Sample) (rest : List PortInput), Consistent s → s.nextSample smp rest → s.processes smp →
    Steps s t → t.rc.fault = false →
    (∀ x, decodeVector (s.present smp rest).eventVector = .evCsAssert x →
        (s.fsm = .idle ∧ s.ses.cont = false ∧ t.fsm = .cmdPhase) ∨ (s.fsm = .contPending ∧ s.ses.cont = true ∧ t.fsm = .dataPhase))
    ∧ (decodeVector (s.present smp rest).eventVector = .evClk →
        (s.fsm = .cmdPhase ∧ s.txn.pos < 7 ∧ t.fsm = .cmdPhase) ∨ (s.fsm = .cmdPhase ∧ s.txn.pos = 7 ∧ t.fsm = .dataPhase)
          ∨ (s.fsm = .dataPhase ∧ t.fsm = .dataPhase))
    ∧ (∀ x, decodeVector (s.present smp rest).eventVector = .evCsDeassert x →
        (s.fsm = .cmdPhase ∨ s.fsm = .dataPhase)
          ∧ ((t.ses.cont = false ∧ t.fsm = .idle) ∨ (t.ses.cont = true ∧ t.fsm = .contPending)))
    ∧ ((∀ x, decodeVector (s.present smp rest).eventVector ≠ .evCsAssert x) →
        decodeVector (s.present smp rest).eventVector ≠ .evClk →
        (∀ x, decodeVector (s.present smp rest).eventVector ≠ .evCsDeassert x) → t.fsm = s.fsm)

/-! ### Invariants -/

/-- R40, strengthened to an invariant that every step keeps, from every state that has it. -/
def Obligations.StepKeepsTheInvariant : Prop := ∀ s t : State, Inv s → Steps s t → Inv t

/-- Both invariants hold after reset, for every build and configuration. -/
def Obligations.ResetHasTheInvariants : Prop :=
  ∀ (b : Build) (c : Configuration), Inv (State.resetWith b c) ∧ OutputOrdered (State.resetWith b c)

/-- The invariant gives the items of R40, and afw of R22 as twice aw. -/
def Obligations.InvariantGivesTheItemsOfTheSpec : Prop :=
  ∀ s : State, Consistent s → SpecInvariant s ∧ s.afw.toNat = 2 * s.ses.aw.toNat

/-- R50, R95: every step keeps the order of the records. -/
def Obligations.StepKeepsTheOutputOrder : Prop := ∀ s t : State, OutputOrdered s → Steps s t → OutputOrdered t

/-- R148, R157 to R159: while the environment keeps its side, the quad lines are present and the counters are unbounded, no
step faults. -/
def Obligations.UndisturbedRunsNeverFault : Prop := ∀ s t : State, Undisturbed s → Steps s t → Undisturbed t

/-- R44, R105 ("done is always 1 here"): in a state with the invariant no sample makes the model draw a free value (log 2). -/
def Obligations.NoFreeValueIsDrawn : Prop :=
  ∀ (s t : State) (smp : Sample) (rest : List PortInput), Inv s → s.nextSample smp rest → Steps s t → t.free = s.free

/-- R166: no rule reads an unspecified register before it is written. Two states with the invariant that agree in everything
a rule can read have successors that agree in everything a rule can read, the records emitted included. So the values log 1
names for those registers do not matter. -/
def Obligations.UnspecifiedRegistersAreNeverRead : Prop :=
  ∀ s s' t t' : State, Inv s → Inv s' → s.readable = s'.readable → Steps s t → Steps s' t' → t.readable = t'.readable

/-! ### Notation -/

/-- R70, R72: the two samples of `S1` and `Q4` carry a clock at its other level and then a sampling edge, chip-select
asserted, with the operands on the data lines; and the bits `S8` sends are assembled to the byte under either bit order. The
sampling edge and the order of a nibble are the choices K1 and K2 of R57 and R64 (PRESUMED, log 21). -/
def Obligations.StimulusDeliversItsOperands : Prop :=
  ∀ (c : Configuration) (m b : Bool) (n : Nibble) (v acc : Byte),
    (∃ l1 l2, shotsS1 c m b = [(false, l1), (false, l2)] ∧ csaOf c l1 = true ∧ csaOf c l2 = true ∧ sOf c l1 = false
        ∧ sOf c l2 = true ∧ mosiBit l2 = m ∧ misoBit l2 = b)
      ∧ (∃ l1 l2, shotsQ4 c n = [(false, l1), (false, l2)] ∧ csaOf c l1 = true ∧ csaOf c l2 = true ∧ sOf c l1 = false
        ∧ sOf c l2 = true ∧ nibbleOf l2 = n)
      ∧ (bitIndices c).foldl (fun a j => shiftIn c.bitOrder a (bitAt v j)) acc = v
end

