-- ==== Sys2Proof/Laws/State.lean ====
section
/-! SUPPORT. One lemma per field per named update of the state, true by rfl, so that no later proof unfolds a record update. -/

namespace Sys2Proof.Machine

/-! ### raiseFault -/

@[simp] theorem raiseFault_cfg (c : FaultCause) (s : State) : (s.raiseFault c).cfg = s.cfg := rfl
@[simp] theorem raiseFault_build (c : FaultCause) (s : State) : (s.raiseFault c).build = s.build := rfl
@[simp] theorem raiseFault_ses (c : FaultCause) (s : State) : (s.raiseFault c).ses = s.ses := rfl
@[simp] theorem raiseFault_txn (c : FaultCause) (s : State) : (s.raiseFault c).txn = s.txn := rfl
@[simp] theorem raiseFault_la (c : FaultCause) (s : State) : (s.raiseFault c).la = s.la := rfl
@[simp] theorem raiseFault_ed (c : FaultCause) (s : State) : (s.raiseFault c).ed = s.ed := rfl
@[simp] theorem raiseFault_fsm (c : FaultCause) (s : State) : (s.raiseFault c).fsm = s.fsm := rfl
@[simp] theorem raiseFault_rc_halted (c : FaultCause) (s : State) : (s.raiseFault c).rc.halted = s.rc.halted := rfl
@[simp] theorem raiseFault_rc_fault (c : FaultCause) (s : State) : (s.raiseFault c).rc.fault = true := rfl
@[simp] theorem raiseFault_rc_faultCode (c : FaultCause) (s : State) : (s.raiseFault c).rc.faultCode = c.code := rfl
@[simp] theorem raiseFault_io (c : FaultCause) (s : State) : (s.raiseFault c).io = s.io := rfl
@[simp] theorem raiseFault_free (c : FaultCause) (s : State) : (s.raiseFault c).free = s.free := rfl

/-! ### openStep -/

@[simp] theorem openStep_cfg (rest : List PortInput) (s : State) : (s.openStep rest).cfg = s.cfg := rfl
@[simp] theorem openStep_build (rest : List PortInput) (s : State) : (s.openStep rest).build = s.build := rfl
@[simp] theorem openStep_ses (rest : List PortInput) (s : State) : (s.openStep rest).ses = s.ses := rfl
@[simp] theorem openStep_txn (rest : List PortInput) (s : State) : (s.openStep rest).txn = s.txn := rfl
@[simp] theorem openStep_la (rest : List PortInput) (s : State) : (s.openStep rest).la = s.la := rfl
@[simp] theorem openStep_ed (rest : List PortInput) (s : State) : (s.openStep rest).ed = s.ed := rfl
@[simp] theorem openStep_fsm (rest : List PortInput) (s : State) : (s.openStep rest).fsm = s.fsm := rfl
@[simp] theorem openStep_rc (rest : List PortInput) (s : State) : (s.openStep rest).rc = s.rc := rfl
@[simp] theorem openStep_io_smp (rest : List PortInput) (s : State) : (s.openStep rest).io.smp = s.io.smp := rfl
@[simp] theorem openStep_io_bev (rest : List PortInput) (s : State) : (s.openStep rest).io.bev = none := rfl
@[simp] theorem openStep_io_aev (rest : List PortInput) (s : State) : (s.openStep rest).io.aev = none := rfl
@[simp] theorem openStep_io_input (rest : List PortInput) (s : State) : (s.openStep rest).io.input = rest := rfl
@[simp] theorem openStep_io_trace (rest : List PortInput) (s : State) : (s.openStep rest).io.trace = s.io.trace := rfl
@[simp] theorem openStep_free (rest : List PortInput) (s : State) : (s.openStep rest).free = s.free := rfl

/-! ### present -/

@[simp] theorem present_cfg (smp : Sample) (rest : List PortInput) (s : State) : (s.present smp rest).cfg = s.cfg := rfl
@[simp] theorem present_build (smp : Sample) (rest : List PortInput) (s : State) : (s.present smp rest).build = s.build := rfl
@[simp] theorem present_ses (smp : Sample) (rest : List PortInput) (s : State) : (s.present smp rest).ses = s.ses := rfl
@[simp] theorem present_txn (smp : Sample) (rest : List PortInput) (s : State) : (s.present smp rest).txn = s.txn := rfl
@[simp] theorem present_la (smp : Sample) (rest : List PortInput) (s : State) : (s.present smp rest).la = s.la := rfl
@[simp] theorem present_ed (smp : Sample) (rest : List PortInput) (s : State) : (s.present smp rest).ed = s.ed := rfl
@[simp] theorem present_fsm (smp : Sample) (rest : List PortInput) (s : State) : (s.present smp rest).fsm = s.fsm := rfl
@[simp] theorem present_rc (smp : Sample) (rest : List PortInput) (s : State) : (s.present smp rest).rc = s.rc := rfl
@[simp] theorem present_io_smp (smp : Sample) (rest : List PortInput) (s : State) : (s.present smp rest).io.smp = smp := rfl
@[simp] theorem present_io_bev (smp : Sample) (rest : List PortInput) (s : State) : (s.present smp rest).io.bev = none := rfl
@[simp] theorem present_io_aev (smp : Sample) (rest : List PortInput) (s : State) : (s.present smp rest).io.aev = none := rfl
@[simp] theorem present_io_input (smp : Sample) (rest : List PortInput) (s : State) : (s.present smp rest).io.input = rest := rfl
@[simp] theorem present_io_trace (smp : Sample) (rest : List PortInput) (s : State) : (s.present smp rest).io.trace = s.io.trace := rfl
@[simp] theorem present_free (smp : Sample) (rest : List PortInput) (s : State) : (s.present smp rest).free = s.free := rfl

/-! ### emitByte -/

@[simp] theorem emitByte_cfg (r : ByteRecord) (s : State) : (s.emitByte r).cfg = s.cfg := rfl
@[simp] theorem emitByte_build (r : ByteRecord) (s : State) : (s.emitByte r).build = s.build := rfl
@[simp] theorem emitByte_ses (r : ByteRecord) (s : State) : (s.emitByte r).ses = s.ses := rfl
@[simp] theorem emitByte_txn (r : ByteRecord) (s : State) : (s.emitByte r).txn = s.txn := rfl
@[simp] theorem emitByte_la (r : ByteRecord) (s : State) : (s.emitByte r).la = s.la := rfl
@[simp] theorem emitByte_ed (r : ByteRecord) (s : State) : (s.emitByte r).ed = s.ed := rfl
@[simp] theorem emitByte_fsm (r : ByteRecord) (s : State) : (s.emitByte r).fsm = s.fsm := rfl
@[simp] theorem emitByte_rc (r : ByteRecord) (s : State) : (s.emitByte r).rc = s.rc := rfl
@[simp] theorem emitByte_io_smp (r : ByteRecord) (s : State) : (s.emitByte r).io.smp = s.io.smp := rfl
@[simp] theorem emitByte_io_bev (r : ByteRecord) (s : State) : (s.emitByte r).io.bev = some r := rfl
@[simp] theorem emitByte_io_aev (r : ByteRecord) (s : State) : (s.emitByte r).io.aev = s.io.aev := rfl
@[simp] theorem emitByte_io_input (r : ByteRecord) (s : State) : (s.emitByte r).io.input = s.io.input := rfl
@[simp] theorem emitByte_io_trace (r : ByteRecord) (s : State) : (s.emitByte r).io.trace = s.io.trace ++ [.byte r] := rfl
@[simp] theorem emitByte_free (r : ByteRecord) (s : State) : (s.emitByte r).free = s.free := rfl

/-! ### emitAnn -/

@[simp] theorem emitAnn_cfg (r : AnnRecord) (s : State) : (s.emitAnn r).cfg = s.cfg := rfl
@[simp] theorem emitAnn_build (r : AnnRecord) (s : State) : (s.emitAnn r).build = s.build := rfl
@[simp] theorem emitAnn_ses (r : AnnRecord) (s : State) : (s.emitAnn r).ses = s.ses := rfl
@[simp] theorem emitAnn_txn (r : AnnRecord) (s : State) : (s.emitAnn r).txn = s.txn := rfl
@[simp] theorem emitAnn_la (r : AnnRecord) (s : State) : (s.emitAnn r).la = s.la := rfl
@[simp] theorem emitAnn_ed (r : AnnRecord) (s : State) : (s.emitAnn r).ed = s.ed := rfl
@[simp] theorem emitAnn_fsm (r : AnnRecord) (s : State) : (s.emitAnn r).fsm = s.fsm := rfl
@[simp] theorem emitAnn_rc (r : AnnRecord) (s : State) : (s.emitAnn r).rc = s.rc := rfl
@[simp] theorem emitAnn_io_smp (r : AnnRecord) (s : State) : (s.emitAnn r).io.smp = s.io.smp := rfl
@[simp] theorem emitAnn_io_bev (r : AnnRecord) (s : State) : (s.emitAnn r).io.bev = s.io.bev := rfl
@[simp] theorem emitAnn_io_aev (r : AnnRecord) (s : State) : (s.emitAnn r).io.aev = some r := rfl
@[simp] theorem emitAnn_io_input (r : AnnRecord) (s : State) : (s.emitAnn r).io.input = s.io.input := rfl
@[simp] theorem emitAnn_io_trace (r : AnnRecord) (s : State) : (s.emitAnn r).io.trace = s.io.trace ++ [.ann r] := rfl
@[simp] theorem emitAnn_free (r : AnnRecord) (s : State) : (s.emitAnn r).free = s.free := rfl

/-! ### appendEntries -/

@[simp] theorem appendEntries_cfg (em es : Entry) (s : State) : (s.appendEntries em es).cfg = s.cfg := rfl
@[simp] theorem appendEntries_build (em es : Entry) (s : State) : (s.appendEntries em es).build = s.build := rfl
@[simp] theorem appendEntries_ses (em es : Entry) (s : State) : (s.appendEntries em es).ses = s.ses := rfl
@[simp] theorem appendEntries_txn_cmd (em es : Entry) (s : State) : (s.appendEntries em es).txn.cmd = s.txn.cmd := rfl
@[simp] theorem appendEntries_txn_cmdValid (em es : Entry) (s : State) : (s.appendEntries em es).txn.cmdValid = s.txn.cmdValid := rfl
@[simp] theorem appendEntries_txn_quadEn (em es : Entry) (s : State) : (s.appendEntries em es).txn.quadEn = s.txn.quadEn := rfl
@[simp] theorem appendEntries_txn_qs (em es : Entry) (s : State) : (s.appendEntries em es).txn.qs = s.txn.qs := rfl
@[simp] theorem appendEntries_txn_dc (em es : Entry) (s : State) : (s.appendEntries em es).txn.dc = s.txn.dc := rfl
@[simp] theorem appendEntries_txn_pos (em es : Entry) (s : State) : (s.appendEntries em es).txn.pos = s.txn.pos := rfl
@[simp] theorem appendEntries_txn_isCont (em es : Entry) (s : State) : (s.appendEntries em es).txn.isCont = s.txn.isCont := rfl
@[simp] theorem appendEntries_txn_startTs (em es : Entry) (s : State) : (s.appendEntries em es).txn.startTs = s.txn.startTs := rfl
@[simp] theorem appendEntries_txn_endTs (em es : Entry) (s : State) : (s.appendEntries em es).txn.endTs = s.txn.endTs := rfl
@[simp] theorem appendEntries_txn_mosiSeq (em es : Entry) (s : State) : (s.appendEntries em es).txn.mosiSeq = s.txn.mosiSeq ++ [em] := rfl
@[simp] theorem appendEntries_txn_misoSeq (em es : Entry) (s : State) : (s.appendEntries em es).txn.misoSeq = s.txn.misoSeq ++ [es] := rfl
@[simp] theorem appendEntries_txn_nclk (em es : Entry) (s : State) : (s.appendEntries em es).txn.nclk = s.txn.nclk + 1 := rfl
@[simp] theorem appendEntries_la (em es : Entry) (s : State) : (s.appendEntries em es).la = s.la := rfl
@[simp] theorem appendEntries_ed (em es : Entry) (s : State) : (s.appendEntries em es).ed = s.ed := rfl
@[simp] theorem appendEntries_fsm (em es : Entry) (s : State) : (s.appendEntries em es).fsm = s.fsm := rfl
@[simp] theorem appendEntries_rc (em es : Entry) (s : State) : (s.appendEntries em es).rc = s.rc := rfl
@[simp] theorem appendEntries_io (em es : Entry) (s : State) : (s.appendEntries em es).io = s.io := rfl
@[simp] theorem appendEntries_free (em es : Entry) (s : State) : (s.appendEntries em es).free = s.free := rfl

/-! ### clearPartial -/

@[simp] theorem clearPartial_cfg (s : State) : s.clearPartial.cfg = s.cfg := rfl
@[simp] theorem clearPartial_build (s : State) : s.clearPartial.build = s.build := rfl
@[simp] theorem clearPartial_ses (s : State) : s.clearPartial.ses = s.ses := rfl
@[simp] theorem clearPartial_txn (s : State) : s.clearPartial.txn = s.txn := rfl
@[simp] theorem clearPartial_la_saccMosi (s : State) : s.clearPartial.la.saccMosi = 0x00#8 := rfl
@[simp] theorem clearPartial_la_saccMiso (s : State) : s.clearPartial.la.saccMiso = 0x00#8 := rfl
@[simp] theorem clearPartial_la_sbits (s : State) : s.clearPartial.la.sbits = 0#4 := rfl
@[simp] theorem clearPartial_la_qhi (s : State) : s.clearPartial.la.qhi = 0x0#4 := rfl
@[simp] theorem clearPartial_la_qhalf (s : State) : s.clearPartial.la.qhalf = false := rfl
@[simp] theorem clearPartial_la_bstart (s : State) : s.clearPartial.la.bstart = s.la.bstart := rfl
@[simp] theorem clearPartial_ed (s : State) : s.clearPartial.ed = s.ed := rfl
@[simp] theorem clearPartial_fsm (s : State) : s.clearPartial.fsm = s.fsm := rfl
@[simp] theorem clearPartial_rc (s : State) : s.clearPartial.rc = s.rc := rfl
@[simp] theorem clearPartial_io (s : State) : s.clearPartial.io = s.io := rfl
@[simp] theorem clearPartial_free (s : State) : s.clearPartial.free = s.free := rfl

/-! ### setAw -/

@[simp] theorem setAw_cfg (w : BitVec 3) (s : State) : (s.setAw w).cfg = s.cfg := rfl
@[simp] theorem setAw_build (w : BitVec 3) (s : State) : (s.setAw w).build = s.build := rfl
@[simp] theorem setAw_ses_aw (w : BitVec 3) (s : State) : (s.setAw w).ses.aw = w := rfl
@[simp] theorem setAw_ses_cont (w : BitVec 3) (s : State) : (s.setAw w).ses.cont = s.ses.cont := rfl
@[simp] theorem setAw_txn (w : BitVec 3) (s : State) : (s.setAw w).txn = s.txn := rfl
@[simp] theorem setAw_la (w : BitVec 3) (s : State) : (s.setAw w).la = s.la := rfl
@[simp] theorem setAw_ed (w : BitVec 3) (s : State) : (s.setAw w).ed = s.ed := rfl
@[simp] theorem setAw_fsm (w : BitVec 3) (s : State) : (s.setAw w).fsm = s.fsm := rfl
@[simp] theorem setAw_rc (w : BitVec 3) (s : State) : (s.setAw w).rc = s.rc := rfl
@[simp] theorem setAw_io (w : BitVec 3) (s : State) : (s.setAw w).io = s.io := rfl
@[simp] theorem setAw_free (w : BitVec 3) (s : State) : (s.setAw w).free = s.free := rfl

/-! ### setCont -/

@[simp] theorem setCont_cfg (b : Bool) (s : State) : (s.setCont b).cfg = s.cfg := rfl
@[simp] theorem setCont_build (b : Bool) (s : State) : (s.setCont b).build = s.build := rfl
@[simp] theorem setCont_ses_aw (b : Bool) (s : State) : (s.setCont b).ses.aw = s.ses.aw := rfl
@[simp] theorem setCont_ses_cont (b : Bool) (s : State) : (s.setCont b).ses.cont = b := rfl
@[simp] theorem setCont_txn (b : Bool) (s : State) : (s.setCont b).txn = s.txn := rfl
@[simp] theorem setCont_la (b : Bool) (s : State) : (s.setCont b).la = s.la := rfl
@[simp] theorem setCont_ed (b : Bool) (s : State) : (s.setCont b).ed = s.ed := rfl
@[simp] theorem setCont_fsm (b : Bool) (s : State) : (s.setCont b).fsm = s.fsm := rfl
@[simp] theorem setCont_rc (b : Bool) (s : State) : (s.setCont b).rc = s.rc := rfl
@[simp] theorem setCont_io (b : Bool) (s : State) : (s.setCont b).io = s.io := rfl
@[simp] theorem setCont_free (b : Bool) (s : State) : (s.setCont b).free = s.free := rfl

/-! ### setFsm -/

@[simp] theorem setFsm_cfg (f : Fsm) (s : State) : (s.setFsm f).cfg = s.cfg := rfl
@[simp] theorem setFsm_build (f : Fsm) (s : State) : (s.setFsm f).build = s.build := rfl
@[simp] theorem setFsm_ses (f : Fsm) (s : State) : (s.setFsm f).ses = s.ses := rfl
@[simp] theorem setFsm_txn (f : Fsm) (s : State) : (s.setFsm f).txn = s.txn := rfl
@[simp] theorem setFsm_la (f : Fsm) (s : State) : (s.setFsm f).la = s.la := rfl
@[simp] theorem setFsm_ed (f : Fsm) (s : State) : (s.setFsm f).ed = s.ed := rfl
@[simp] theorem setFsm_fsm (f : Fsm) (s : State) : (s.setFsm f).fsm = f := rfl
@[simp] theorem setFsm_rc (f : Fsm) (s : State) : (s.setFsm f).rc = s.rc := rfl
@[simp] theorem setFsm_io (f : Fsm) (s : State) : (s.setFsm f).io = s.io := rfl
@[simp] theorem setFsm_free (f : Fsm) (s : State) : (s.setFsm f).free = s.free := rfl

/-! ### setPos -/

@[simp] theorem setPos_cfg (p : Nat) (s : State) : (s.setPos p).cfg = s.cfg := rfl
@[simp] theorem setPos_build (p : Nat) (s : State) : (s.setPos p).build = s.build := rfl
@[simp] theorem setPos_ses (p : Nat) (s : State) : (s.setPos p).ses = s.ses := rfl
@[simp] theorem setPos_txn_cmd (p : Nat) (s : State) : (s.setPos p).txn.cmd = s.txn.cmd := rfl
@[simp] theorem setPos_txn_cmdValid (p : Nat) (s : State) : (s.setPos p).txn.cmdValid = s.txn.cmdValid := rfl
@[simp] theorem setPos_txn_quadEn (p : Nat) (s : State) : (s.setPos p).txn.quadEn = s.txn.quadEn := rfl
@[simp] theorem setPos_txn_qs (p : Nat) (s : State) : (s.setPos p).txn.qs = s.txn.qs := rfl
@[simp] theorem setPos_txn_dc (p : Nat) (s : State) : (s.setPos p).txn.dc = s.txn.dc := rfl
@[simp] theorem setPos_txn_pos (p : Nat) (s : State) : (s.setPos p).txn.pos = p := rfl
@[simp] theorem setPos_txn_isCont (p : Nat) (s : State) : (s.setPos p).txn.isCont = s.txn.isCont := rfl
@[simp] theorem setPos_txn_startTs (p : Nat) (s : State) : (s.setPos p).txn.startTs = s.txn.startTs := rfl
@[simp] theorem setPos_txn_endTs (p : Nat) (s : State) : (s.setPos p).txn.endTs = s.txn.endTs := rfl
@[simp] theorem setPos_txn_mosiSeq (p : Nat) (s : State) : (s.setPos p).txn.mosiSeq = s.txn.mosiSeq := rfl
@[simp] theorem setPos_txn_misoSeq (p : Nat) (s : State) : (s.setPos p).txn.misoSeq = s.txn.misoSeq := rfl
@[simp] theorem setPos_txn_nclk (p : Nat) (s : State) : (s.setPos p).txn.nclk = s.txn.nclk := rfl
@[simp] theorem setPos_la (p : Nat) (s : State) : (s.setPos p).la = s.la := rfl
@[simp] theorem setPos_ed (p : Nat) (s : State) : (s.setPos p).ed = s.ed := rfl
@[simp] theorem setPos_fsm (p : Nat) (s : State) : (s.setPos p).fsm = s.fsm := rfl
@[simp] theorem setPos_rc (p : Nat) (s : State) : (s.setPos p).rc = s.rc := rfl
@[simp] theorem setPos_io (p : Nat) (s : State) : (s.setPos p).io = s.io := rfl
@[simp] theorem setPos_free (p : Nat) (s : State) : (s.setPos p).free = s.free := rfl

/-! ### setEndTs -/

@[simp] theorem setEndTs_cfg (t : Nat) (s : State) : (s.setEndTs t).cfg = s.cfg := rfl
@[simp] theorem setEndTs_build (t : Nat) (s : State) : (s.setEndTs t).build = s.build := rfl
@[simp] theorem setEndTs_ses (t : Nat) (s : State) : (s.setEndTs t).ses = s.ses := rfl
@[simp] theorem setEndTs_txn_cmd (t : Nat) (s : State) : (s.setEndTs t).txn.cmd = s.txn.cmd := rfl
@[simp] theorem setEndTs_txn_cmdValid (t : Nat) (s : State) : (s.setEndTs t).txn.cmdValid = s.txn.cmdValid := rfl
@[simp] theorem setEndTs_txn_quadEn (t : Nat) (s : State) : (s.setEndTs t).txn.quadEn = s.txn.quadEn := rfl
@[simp] theorem setEndTs_txn_qs (t : Nat) (s : State) : (s.setEndTs t).txn.qs = s.txn.qs := rfl
@[simp] theorem setEndTs_txn_dc (t : Nat) (s : State) : (s.setEndTs t).txn.dc = s.txn.dc := rfl
@[simp] theorem setEndTs_txn_pos (t : Nat) (s : State) : (s.setEndTs t).txn.pos = s.txn.pos := rfl
@[simp] theorem setEndTs_txn_isCont (t : Nat) (s : State) : (s.setEndTs t).txn.isCont = s.txn.isCont := rfl
@[simp] theorem setEndTs_txn_startTs (t : Nat) (s : State) : (s.setEndTs t).txn.startTs = s.txn.startTs := rfl
@[simp] theorem setEndTs_txn_endTs (t : Nat) (s : State) : (s.setEndTs t).txn.endTs = t := rfl
@[simp] theorem setEndTs_txn_mosiSeq (t : Nat) (s : State) : (s.setEndTs t).txn.mosiSeq = s.txn.mosiSeq := rfl
@[simp] theorem setEndTs_txn_misoSeq (t : Nat) (s : State) : (s.setEndTs t).txn.misoSeq = s.txn.misoSeq := rfl
@[simp] theorem setEndTs_txn_nclk (t : Nat) (s : State) : (s.setEndTs t).txn.nclk = s.txn.nclk := rfl
@[simp] theorem setEndTs_la (t : Nat) (s : State) : (s.setEndTs t).la = s.la := rfl
@[simp] theorem setEndTs_ed (t : Nat) (s : State) : (s.setEndTs t).ed = s.ed := rfl
@[simp] theorem setEndTs_fsm (t : Nat) (s : State) : (s.setEndTs t).fsm = s.fsm := rfl
@[simp] theorem setEndTs_rc (t : Nat) (s : State) : (s.setEndTs t).rc = s.rc := rfl
@[simp] theorem setEndTs_io (t : Nat) (s : State) : (s.setEndTs t).io = s.io := rfl
@[simp] theorem setEndTs_free (t : Nat) (s : State) : (s.setEndTs t).free = s.free := rfl

/-! ### setHalted -/

@[simp] theorem setHalted_cfg (s : State) : s.setHalted.cfg = s.cfg := rfl
@[simp] theorem setHalted_build (s : State) : s.setHalted.build = s.build := rfl
@[simp] theorem setHalted_ses (s : State) : s.setHalted.ses = s.ses := rfl
@[simp] theorem setHalted_txn (s : State) : s.setHalted.txn = s.txn := rfl
@[simp] theorem setHalted_la (s : State) : s.setHalted.la = s.la := rfl
@[simp] theorem setHalted_ed (s : State) : s.setHalted.ed = s.ed := rfl
@[simp] theorem setHalted_fsm (s : State) : s.setHalted.fsm = s.fsm := rfl
@[simp] theorem setHalted_rc_halted (s : State) : s.setHalted.rc.halted = true := rfl
@[simp] theorem setHalted_rc_fault (s : State) : s.setHalted.rc.fault = s.rc.fault := rfl
@[simp] theorem setHalted_rc_faultCode (s : State) : s.setHalted.rc.faultCode = s.rc.faultCode := rfl
@[simp] theorem setHalted_io (s : State) : s.setHalted.io = s.io := rfl
@[simp] theorem setHalted_free (s : State) : s.setHalted.free = s.free := rfl

/-! ### drawByte -/

@[simp] theorem drawByte_cfg (s : State) : s.drawByte.2.cfg = s.cfg := rfl
@[simp] theorem drawByte_build (s : State) : s.drawByte.2.build = s.build := rfl
@[simp] theorem drawByte_ses (s : State) : s.drawByte.2.ses = s.ses := rfl
@[simp] theorem drawByte_txn (s : State) : s.drawByte.2.txn = s.txn := rfl
@[simp] theorem drawByte_la (s : State) : s.drawByte.2.la = s.la := rfl
@[simp] theorem drawByte_ed (s : State) : s.drawByte.2.ed = s.ed := rfl
@[simp] theorem drawByte_fsm (s : State) : s.drawByte.2.fsm = s.fsm := rfl
@[simp] theorem drawByte_rc (s : State) : s.drawByte.2.rc = s.rc := rfl
@[simp] theorem drawByte_io (s : State) : s.drawByte.2.io = s.io := rfl
@[simp] theorem drawByte_free (s : State) : s.drawByte.2.free = s.free + 1 := rfl

/-! ### setSingle -/

@[simp] theorem setSingle_cfg (m b : Byte) (n : BitVec 4) (s : State) : (s.setSingle m b n).cfg = s.cfg := rfl
@[simp] theorem setSingle_build (m b : Byte) (n : BitVec 4) (s : State) : (s.setSingle m b n).build = s.build := rfl
@[simp] theorem setSingle_ses (m b : Byte) (n : BitVec 4) (s : State) : (s.setSingle m b n).ses = s.ses := rfl
@[simp] theorem setSingle_txn (m b : Byte) (n : BitVec 4) (s : State) : (s.setSingle m b n).txn = s.txn := rfl
@[simp] theorem setSingle_la_saccMosi (m b : Byte) (n : BitVec 4) (s : State) : (s.setSingle m b n).la.saccMosi = m := rfl
@[simp] theorem setSingle_la_saccMiso (m b : Byte) (n : BitVec 4) (s : State) : (s.setSingle m b n).la.saccMiso = b := rfl
@[simp] theorem setSingle_la_sbits (m b : Byte) (n : BitVec 4) (s : State) : (s.setSingle m b n).la.sbits = n := rfl
@[simp] theorem setSingle_la_qhi (m b : Byte) (n : BitVec 4) (s : State) : (s.setSingle m b n).la.qhi = s.la.qhi := rfl
@[simp] theorem setSingle_la_qhalf (m b : Byte) (n : BitVec 4) (s : State) : (s.setSingle m b n).la.qhalf = s.la.qhalf := rfl
@[simp] theorem setSingle_la_bstart (m b : Byte) (n : BitVec 4) (s : State) : (s.setSingle m b n).la.bstart = s.la.bstart := rfl
@[simp] theorem setSingle_ed (m b : Byte) (n : BitVec 4) (s : State) : (s.setSingle m b n).ed = s.ed := rfl
@[simp] theorem setSingle_fsm (m b : Byte) (n : BitVec 4) (s : State) : (s.setSingle m b n).fsm = s.fsm := rfl
@[simp] theorem setSingle_rc (m b : Byte) (n : BitVec 4) (s : State) : (s.setSingle m b n).rc = s.rc := rfl
@[simp] theorem setSingle_io (m b : Byte) (n : BitVec 4) (s : State) : (s.setSingle m b n).io = s.io := rfl
@[simp] theorem setSingle_free (m b : Byte) (n : BitVec 4) (s : State) : (s.setSingle m b n).free = s.free := rfl

/-! ### latchEdge -/

@[simp] theorem latchEdge_cfg (s : State) : (latchEdge s).cfg = s.cfg := rfl
@[simp] theorem latchEdge_build (s : State) : (latchEdge s).build = s.build := rfl
@[simp] theorem latchEdge_ses (s : State) : (latchEdge s).ses = s.ses := rfl
@[simp] theorem latchEdge_txn (s : State) : (latchEdge s).txn = s.txn := rfl
@[simp] theorem latchEdge_la (s : State) : (latchEdge s).la = s.la := rfl
@[simp] theorem latchEdge_ed_primed (s : State) : (latchEdge s).ed.primed = true := rfl
@[simp] theorem latchEdge_ed_csaPrev (s : State) : (latchEdge s).ed.csaPrev = s.csaNow := rfl
@[simp] theorem latchEdge_ed_sPrev (s : State) : (latchEdge s).ed.sPrev = s.sNow := rfl
@[simp] theorem latchEdge_ed_lastTs (s : State) : (latchEdge s).ed.lastTs = s.io.smp.ts := rfl
@[simp] theorem latchEdge_fsm (s : State) : (latchEdge s).fsm = s.fsm := rfl
@[simp] theorem latchEdge_rc (s : State) : (latchEdge s).rc = s.rc := rfl
@[simp] theorem latchEdge_io (s : State) : (latchEdge s).io = s.io := rfl
@[simp] theorem latchEdge_free (s : State) : (latchEdge s).free = s.free := rfl

end Sys2Proof.Machine
end

