-- ==== Sys2Proof/Laws/Assembler.lean ====
section
/-! SUPPORT. What the lane assembler's operations and the clock edge can do, said once each: inversion lemmas for
`commit`, `byteDone`, `singleEdge`, `quadHigh`, `quadLow`, `advancePos` and `clockEdge`. -/

namespace Sys2Proof.Machine

@[simp] theorem commit_ok (s s' : State) : commit s (.ok s') = .next s' := rfl

@[simp] theorem commit_error (s : State) (c : FaultCause) : commit s (.error c) = .next (s.raiseFault c) := rfl

/-- A committed operation ends in its own result or in the fault taken from the state before it. -/
theorem commit_eq_next {s t : State} {r : Except FaultCause State} :
    commit s r = .next t ↔ r = .ok t ∨ ∃ c, r = .error c ∧ t = s.raiseFault c := by
  cases r with
  | ok s' => simp [eq_comm]
  | error c => simp [eq_comm]

theorem commit_next (s : State) (r : Except FaultCause State) : ∃ t, commit s r = .next t := by
  cases r with
  | ok s' => exact ⟨s', rfl⟩
  | error c => exact ⟨_, rfl⟩

/-- The state after a byte completion, R95. -/
def byteState (em es : Entry) (p : AsmPath) (s : State) : State :=
  (s.appendEntries em es).emitByte (s.byteRecord em es p)

theorem byteDone_ok {em es : Entry} {p : AsmPath} {s t : State} :
    byteDone em es p s = .ok t ↔ s.countOverflow = false ∧ t = byteState em es p s := by
  unfold byteDone byteState
  cases h : s.countOverflow <;> simp [eq_comm]

theorem byteDone_error {em es : Entry} {p : AsmPath} {s : State} {c : FaultCause} :
    byteDone em es p s = .error c ↔ s.countOverflow = true ∧ c = .counterOverflow s.txn.pos := by
  unfold byteDone
  cases h : s.countOverflow <;> simp [eq_comm]

@[simp] theorem markByteStart_cfg (s : State) : s.markByteStart.cfg = s.cfg := by
  unfold State.markByteStart; split <;> rfl
@[simp] theorem markByteStart_build (s : State) : s.markByteStart.build = s.build := by
  unfold State.markByteStart; split <;> rfl
@[simp] theorem markByteStart_ses (s : State) : s.markByteStart.ses = s.ses := by
  unfold State.markByteStart; split <;> rfl
@[simp] theorem markByteStart_txn (s : State) : s.markByteStart.txn = s.txn := by
  unfold State.markByteStart; split <;> rfl
@[simp] theorem markByteStart_ed (s : State) : s.markByteStart.ed = s.ed := by
  unfold State.markByteStart; split <;> rfl
@[simp] theorem markByteStart_fsm (s : State) : s.markByteStart.fsm = s.fsm := by
  unfold State.markByteStart; split <;> rfl
@[simp] theorem markByteStart_rc (s : State) : s.markByteStart.rc = s.rc := by
  unfold State.markByteStart; split <;> rfl
@[simp] theorem markByteStart_io (s : State) : s.markByteStart.io = s.io := by
  unfold State.markByteStart; split <;> rfl
@[simp] theorem markByteStart_free (s : State) : s.markByteStart.free = s.free := by
  unfold State.markByteStart; split <;> rfl
@[simp] theorem markByteStart_la_bstart (s : State) :
    s.markByteStart.la.bstart = if s.la.sbits = 0#4 then s.io.smp.ts else s.la.bstart := by
  unfold State.markByteStart; split <;> rfl
@[simp] theorem markByteStart_la_qhi (s : State) : s.markByteStart.la.qhi = s.la.qhi := by
  unfold State.markByteStart; split <;> rfl
@[simp] theorem markByteStart_la_qhalf (s : State) : s.markByteStart.la.qhalf = s.la.qhalf := by
  unfold State.markByteStart; split <;> rfl
@[simp] theorem markByteStart_la_sbits (s : State) : s.markByteStart.la.sbits = s.la.sbits := by
  unfold State.markByteStart; split <;> rfl

/-- On the eighth edge the byte's start is already written. -/
theorem markByteStart_of_last {s : State} (h : s.la.sbits = 7#4) : s.markByteStart = s := by
  unfold State.markByteStart; rw [h]; rfl

/-- The MOSI accumulator with the edge's bit shifted in. -/
def mosiShift (s : State) : Byte := shiftIn s.cfg.bitOrder s.la.saccMosi (mosiBit s.io.smp.lines)

/-- The MISO accumulator with the edge's bit shifted in. -/
def misoShift (s : State) : Byte := shiftIn s.cfg.bitOrder s.la.saccMiso (misoBit s.io.smp.lines)

/-- SINGLE_EDGE that completes no byte. -/
def singleShifted (s : State) : State := s.markByteStart.setSingle (mosiShift s) (misoShift s) (s.la.sbits + 1#4)

/-- SINGLE_EDGE that completes a byte. -/
def singleCompleted (s : State) : State :=
  (byteState (.byte (mosiShift s)) (.byte (misoShift s)) .single s).setSingle 0x00#8 0x00#8 0#4

theorem singleEdge_ok {s : State} {r : Option Byte × State} (h : singleEdge s = .ok r) :
    (s.la.sbits ≠ 7#4 ∧ r = (none, singleShifted s))
      ∨ (s.la.sbits = 7#4 ∧ s.countOverflow = false ∧ r = (some (mosiShift s), singleCompleted s)) := by
  unfold singleEdge completeSingle at h
  by_cases h7 : s.la.sbits = 7#4
  · refine .inr ⟨h7, ?_⟩
    simp only [h7, ↓reduceIte, markByteStart_of_last h7] at h
    split at h
    · next s' hb =>
      obtain ⟨ho, rfl⟩ := byteDone_ok.mp hb
      exact ⟨ho, by simpa [singleCompleted, mosiShift, misoShift, eq_comm] using h⟩
    · cases h
  · refine .inl ⟨h7, ?_⟩
    simp only [h7, ↓reduceIte, Except.ok.injEq] at h
    exact h.symm

theorem singleEdge_error {s : State} {c : FaultCause} (h : singleEdge s = .error c) :
    s.la.sbits = 7#4 ∧ s.countOverflow = true ∧ c = .counterOverflow s.txn.pos := by
  unfold singleEdge completeSingle at h
  by_cases h7 : s.la.sbits = 7#4
  · simp only [h7, ↓reduceIte, markByteStart_of_last h7] at h
    split at h
    · cases h
    · next c' hb =>
      obtain ⟨ho, rfl⟩ := byteDone_error.mp hb
      exact ⟨h7, ho, by simpa [eq_comm] using h⟩
  · simp [h7] at h

theorem singleEdge_shifted {s : State} (h : s.la.sbits ≠ 7#4) : singleEdge s = .ok (none, singleShifted s) := by
  unfold singleEdge; simp only [h, ↓reduceIte]; rfl

theorem singleEdge_completed {s : State} (h : s.la.sbits = 7#4) (ho : s.countOverflow = false) :
    singleEdge s = .ok (some (mosiShift s), singleCompleted s) := by
  unfold singleEdge completeSingle
  simp only [h, ↓reduceIte, markByteStart_of_last h]
  rw [byteDone_ok.mpr ⟨ho, rfl⟩]; rfl

/-- QUAD_HIGH with the lines present. -/
def quadHeld (s : State) : State :=
  { s with la := { s.la with qhi := nibbleOf s.io.smp.lines, qhalf := true, bstart := s.io.smp.ts } }

theorem quadHigh_present {s : State} (h : s.cfg.hasQuad = true) : quadHigh s = .ok (quadHeld s) := by
  unfold quadHigh State.quadNibble; simp only [h, ↓reduceIte]; rfl

theorem quadHigh_absent {s : State} (h : s.cfg.hasQuad = false) : quadHigh s = .error (.quadLinesAbsent s.txn.pos) := by
  unfold quadHigh State.quadNibble; simp [h]

/-- The byte QUAD_LOW completes. -/
def quadLowByte (s : State) : Byte := quadByte s.la.qhi (nibbleOf s.io.smp.lines)

/-- QUAD_LOW with the lines present and room for the byte. -/
def quadCompleted (s : State) : State :=
  let u := byteState (quadEntries s.txn.pos (quadLowByte s)).1 (quadEntries s.txn.pos (quadLowByte s)).2 .quad s
  { u with la := { u.la with qhi := 0x0#4, qhalf := false } }

theorem quadLow_present {s : State} (h : s.cfg.hasQuad = true) (ho : s.countOverflow = false) :
    quadLow s = .ok (quadLowByte s, quadCompleted s) := by
  unfold quadLow State.quadNibble
  simp only [h, ↓reduceIte]
  rw [byteDone_ok.mpr ⟨ho, rfl⟩]; rfl

theorem quadLow_absent {s : State} (h : s.cfg.hasQuad = false) : quadLow s = .error (.quadLinesAbsent s.txn.pos) := by
  unfold quadLow State.quadNibble; simp [h]

theorem quadLow_overflow {s : State} (h : s.cfg.hasQuad = true) (ho : s.countOverflow = true) :
    quadLow s = .error (.counterOverflow s.txn.pos) := by
  unfold quadLow State.quadNibble
  simp only [h, ↓reduceIte]
  rw [byteDone_error.mpr ⟨ho, rfl⟩]

theorem quadLow_ok {s : State} {r : Byte × State} (h : quadLow s = .ok r) :
    s.cfg.hasQuad = true ∧ s.countOverflow = false ∧ r = (quadLowByte s, quadCompleted s) := by
  cases hq : s.cfg.hasQuad with
  | false => rw [quadLow_absent hq] at h; cases h
  | true =>
    cases ho : s.countOverflow with
    | true => rw [quadLow_overflow hq ho] at h; cases h
    | false => rw [quadLow_present hq ho] at h; exact ⟨rfl, rfl, (Except.ok.inj h).symm⟩

theorem quadHigh_ok {s t : State} (h : quadHigh s = .ok t) : s.cfg.hasQuad = true ∧ t = quadHeld s := by
  cases hq : s.cfg.hasQuad with
  | false => rw [quadHigh_absent hq] at h; cases h
  | true => rw [quadHigh_present hq] at h; exact ⟨rfl, (Except.ok.inj h).symm⟩

theorem advancePos_ok {p : Nat} {s t : State} :
    advancePos p s = .ok t ↔ exceeds s.build.widths.posW (p + 1) = false ∧ t = s.setPos (p + 1) := by
  unfold advancePos
  cases exceeds s.build.widths.posW (p + 1) <;> simp [eq_comm]

theorem advancePos_error {p : Nat} {s : State} {c : FaultCause} :
    advancePos p s = .error c ↔ exceeds s.build.widths.posW (p + 1) = true ∧ c = .counterOverflow p := by
  unfold advancePos
  cases exceeds s.build.widths.posW (p + 1) <;> simp [eq_comm]

/-- Everything a clock edge that does not fault can do before pos is advanced. -/
inductive EdgeEffect (s : State) : State → Prop
  | high (path : s.onQuadPath = true) (half : s.la.qhalf = false) (lines : s.cfg.hasQuad = true) :
      EdgeEffect s (quadHeld s)
  | low (path : s.onQuadPath = true) (half : s.la.qhalf = true) (lines : s.cfg.hasQuad = true)
      (room : s.countOverflow = false) (noCheck : ¬(0 < s.txn.dc ∧ s.txn.pos = 15)) : EdgeEffect s (quadCompleted s)
  | check (path : s.onQuadPath = true) (half : s.la.qhalf = true) (lines : s.cfg.hasQuad = true)
      (room : s.countOverflow = false) (dummy : 0 < s.txn.dc) (at15 : s.txn.pos = 15) :
      EdgeEffect s (contCheck (quadLowByte s) (quadCompleted s))
  | shift (path : s.onQuadPath = false) (bits : s.la.sbits ≠ 7#4) (noCapture : ¬(s.txn.pos = 7 ∧ s.txn.isCont = false)) :
      EdgeEffect s (singleShifted s)
  | byte (path : s.onQuadPath = false) (bits : s.la.sbits = 7#4) (room : s.countOverflow = false)
      (noCapture : ¬(s.txn.pos = 7 ∧ s.txn.isCont = false)) : EdgeEffect s (singleCompleted s)
  | capture (path : s.onQuadPath = false) (bits : s.la.sbits = 7#4) (room : s.countOverflow = false) (at7 : s.txn.pos = 7)
      (fresh : s.txn.isCont = false) : EdgeEffect s (captureCommand (mosiShift s) (singleCompleted s))
  | free (path : s.onQuadPath = false) (bits : s.la.sbits ≠ 7#4) (at7 : s.txn.pos = 7) (fresh : s.txn.isCont = false) :
      EdgeEffect s (captureCommand (singleShifted s).drawByte.1 (singleShifted s).drawByte.2)

@[simp] theorem quadEntry_build (m : Byte) (s : State) : (quadEntry m s).build = s.build := by
  unfold quadEntry; split <;> rfl

@[simp] theorem captureCommand_build (m : Byte) (s : State) : (captureCommand m s).build = s.build := by
  unfold captureCommand; simp

/-- R106, R107 for a byte that is no key of the QUAD_TABLE. -/
theorem captureCommand_none {m : Byte} {s : State} (h : s.build.tables.quad.lookup m = none) :
    captureCommand m s = { s with txn := { s.txn with cmd := m, cmdValid := true }, fsm := .dataPhase } := by
  unfold captureCommand quadEntry; dsimp only; rw [h]; rfl

/-- R106, R107 for a quad-capable command. -/
theorem captureCommand_some {m : Byte} {s : State} {dc : Nat} (h : s.build.tables.quad.lookup m = some dc) :
    captureCommand m s = { s with
      txn := { s.txn with cmd := m, cmdValid := true, quadEn := true, qs := Config.quadStart, dc := dc }
      fsm := .dataPhase } := by
  unfold captureCommand quadEntry; dsimp only; rw [h]; rfl

theorem quadPart_ok {s t : State} (path : s.onQuadPath = true) (h : quadPart s = .ok t) : EdgeEffect s t := by
  unfold quadPart at h
  cases hh : s.la.qhalf with
  | false =>
    simp only [hh, Bool.false_eq_true, ↓reduceIte] at h
    obtain ⟨hq, rfl⟩ := quadHigh_ok h
    exact .high path hh hq
  | true =>
    simp only [hh, ↓reduceIte] at h
    split at h
    · cases h
    · next r hr =>
      obtain ⟨hq, ho, rfl⟩ := quadLow_ok hr
      have h := Except.ok.inj h
      by_cases hc : 0 < s.txn.dc ∧ s.txn.pos = Config.chk
      · rw [if_pos hc] at h; subst h; exact .check path hh hq ho hc.1 hc.2
      · rw [if_neg hc] at h; subst h; exact .low path hh hq ho hc

theorem singlePart_ok {s t : State} (path : s.onQuadPath = false) (h : singlePart s = .ok t) : EdgeEffect s t := by
  unfold singlePart at h
  split at h
  · cases h
  · next r hr =>
    have h := Except.ok.inj h
    obtain ⟨h7, rfl⟩ | ⟨h7, ho, rfl⟩ := singleEdge_ok hr
    · by_cases hc : s.txn.pos = Config.cmdPos ∧ s.txn.isCont = false
      · rw [if_pos hc] at h; subst h; exact .free path h7 hc.1 hc.2
      · rw [if_neg hc] at h; subst h; exact .shift path h7 hc
    · by_cases hc : s.txn.pos = Config.cmdPos ∧ s.txn.isCont = false
      · rw [if_pos hc] at h; subst h; exact .capture path h7 ho hc.1 hc.2
      · rw [if_neg hc] at h; subst h; exact .byte path h7 ho hc

theorem edgeEffect_build {s u : State} (h : EdgeEffect s u) : u.build = s.build := by
  cases h <;> simp [quadHeld, quadCompleted, contCheck, singleShifted, singleCompleted, byteState]

/-- The clock edge: one effect, then the increment of pos. -/
theorem clockEdge_ok {s t : State} (h : clockEdge s = .ok t) :
    ∃ u, EdgeEffect s u ∧ exceeds s.build.widths.posW (s.txn.pos + 1) = false ∧ t = u.setPos (s.txn.pos + 1) := by
  unfold clockEdge at h
  split at h
  · cases h
  · next u hu =>
    obtain ⟨hx, rfl⟩ := advancePos_ok.mp h
    have he : EdgeEffect s u := by
      cases hp : s.onQuadPath with
      | true => rw [hp] at hu; exact quadPart_ok hp hu
      | false => rw [hp] at hu; exact singlePart_ok hp hu
    exact ⟨u, he, edgeEffect_build he ▸ hx, rfl⟩

/-- The faults of a clock edge (R158, R159). -/
theorem clockEdge_error {s : State} {c : FaultCause} (h : clockEdge s = .error c) :
    (c = .quadLinesAbsent s.txn.pos ∧ s.onQuadPath = true ∧ s.cfg.hasQuad = false)
      ∨ (c = .counterOverflow s.txn.pos
          ∧ (exceeds s.build.widths.posW (s.txn.pos + 1) = true
            ∨ (s.countOverflow = true
              ∧ ((s.onQuadPath = true ∧ s.cfg.hasQuad = true ∧ s.la.qhalf = true)
                ∨ (s.onQuadPath = false ∧ s.la.sbits = 7#4))))) := by
  unfold clockEdge at h
  split at h
  · next c' hu =>
    obtain rfl : c' = c := by simpa using h
    cases hp : s.onQuadPath with
    | true =>
      rw [hp] at hu
      cases hq : s.cfg.hasQuad with
      | false =>
        left
        simp only [↓reduceIte, quadPart, quadLow_absent hq, quadHigh_absent hq] at hu
        split at hu <;> exact ⟨(Except.error.inj hu).symm, rfl, rfl⟩
      | true =>
        right
        simp only [↓reduceIte, quadPart, quadHigh_present hq] at hu
        split at hu
        · next hh =>
          cases ho : s.countOverflow with
          | true =>
            rw [quadLow_overflow hq ho] at hu
            exact ⟨(Except.error.inj hu).symm, .inr ⟨rfl, .inl ⟨rfl, rfl, hh⟩⟩⟩
          | false => rw [quadLow_present hq ho] at hu; cases hu
        · cases hu
    | false =>
      right
      simp only [hp, Bool.false_eq_true, ↓reduceIte, singlePart] at hu
      split at hu
      · next c'' hs =>
        obtain rfl : c'' = c' := by simpa using hu
        obtain ⟨h7, ho, rfl⟩ := singleEdge_error hs
        exact ⟨rfl, .inr ⟨ho, .inr ⟨rfl, h7⟩⟩⟩
      · cases hu
  · next u hu =>
    right
    obtain ⟨hx, rfl⟩ := advancePos_error.mp h
    have he : EdgeEffect s u := by
      cases hp : s.onQuadPath with
      | true => rw [hp] at hu; exact quadPart_ok hp hu
      | false => rw [hp] at hu; exact singlePart_ok hp hu
    exact ⟨rfl, .inl (edgeEffect_build he ▸ hx)⟩

end Sys2Proof.Machine
end

