-- ==== Sys2Proof/Laws/Interpreter.lean ====
section
/-! SUPPORT. What the command interpreter can do, said once: the address assembly over bytes, and the one inversion lemma
that every command row and the dispatch of R134 share. -/

namespace Sys2Proof.Machine

/-! ### The address -/

/-- The big-endian value of bytes after the value already read (R44). -/
def bigEndian (acc : Nat) (vs : List Byte) : Nat := vs.foldl (fun a v => a * 256 + v.toNat) acc

/-- Over bytes the loop of R44 draws no free value. -/
theorem assembleAddr_bytes (vs : List Byte) (a : Nat) (s : State) :
    assembleAddr (vs.map Entry.byte) a s = (bigEndian a vs, s) := by
  induction vs generalizing a with
  | nil => rfl
  | cons v vs ih => simp only [List.map_cons, assembleAddr, State.entryValue]; exact ih _

theorem bigEndian_lt (vs : List Byte) (a : Nat) : bigEndian a vs < (a + 1) * 256 ^ vs.length := by
  induction vs generalizing a with
  | nil => simp [bigEndian]
  | cons v vs ih =>
    refine lt_of_lt_of_le (ih _) ?_
    have hv : v.toNat < 256 := v.isLt
    rw [List.length_cons, pow_succ, mul_comm (256 ^ _) 256, ← mul_assoc]
    exact Nat.mul_le_mul_right _ (show a * 256 + v.toNat + 1 ≤ (a + 1) * 256 by omega)

/-- The loop of R44 changes the counter of free values only. -/
theorem assembleAddr_state (es : List Entry) (a : Nat) (s : State) :
    ∃ f, (assembleAddr es a s).2 = { s with free := f } := by
  induction es generalizing a s with
  | nil => exact ⟨s.free, rfl⟩
  | cons e es ih =>
    obtain ⟨f, hf⟩ := ih (a * 256 + (s.entryValue e).1.toNat) (s.entryValue e).2
    refine ⟨f, ?_⟩
    rw [assembleAddr, hf]
    cases e <;> rfl

/-- The entries that R44 reads are all bytes. -/
theorem assembleAddr_isBytes {es : List Entry} (h : ∀ e ∈ es, ∃ v, e = .byte v) (a : Nat) (s : State) :
    (assembleAddr es a s).2 = s := by
  induction es generalizing a with
  | nil => rfl
  | cons e es ih =>
    obtain ⟨v, rfl⟩ := h e (by simp)
    exact ih (fun e he => h e (by simp [he])) _

/-- `startAddr` when the buffer begins with a command entry and aw bytes. -/
theorem startAddr_of_bytes {s : State} {e0 : Entry} {vs : List Byte} {rest : List Entry}
    (hm : s.txn.mosiSeq = e0 :: (vs.map Entry.byte ++ rest)) (hl : vs.length = s.ses.aw.toNat) :
    s.startAddr = (bigEndian 0 vs, s) := by
  unfold State.startAddr
  rw [hm, List.drop_succ_cons, List.drop_zero, ← hl, List.take_append_of_le_length (by simp), List.take_of_length_le (by simp),
    assembleAddr_bytes]

/-! ### The effect of a command row -/

/-- Everything a command row can do: nothing, a record, or a toggle's record and width (and free values drawn). -/
inductive CommandEffect (s : State) : State → Prop
  | silent (f : Nat) : CommandEffect s { s with free := f }
  | noted (f : Nat) (r : AnnRecord) (start : r.startTs = s.txn.startTs) (stop : r.endTs = s.txn.endTs) (old : r.aw = s.ses.aw) :
      CommandEffect s (State.emitAnn r { s with free := f })
  | toggled (w : BitVec 3) (r : AnnRecord) (start : r.startTs = s.txn.startTs) (stop : r.endTs = s.txn.endTs)
      (old : r.aw = s.ses.aw) (kind : r.kind = .toggle) : CommandEffect s ((s.emitAnn r).setAw w)

theorem dataCmd_effect (o : Nat) (s : State) : CommandEffect s (dataCmd o s) := by
  unfold dataCmd
  split
  · exact .noted s.free _ rfl rfl rfl
  · obtain ⟨f, hf⟩ := assembleAddr_state ((s.txn.mosiSeq.drop 1).take s.ses.aw.toNat) 0 s
    have hf : s.startAddr.2 = { s with free := f } := hf
    dsimp only
    rw [hf]
    split
    · exact .noted f _ rfl rfl rfl
    · exact .silent f

/-- A data command keeps aw. -/
@[simp] theorem dataCmd_ses (o : Nat) (s : State) : (dataCmd o s).ses = s.ses := by
  unfold dataCmd
  split
  · rfl
  · obtain ⟨f, hf⟩ := assembleAddr_state ((s.txn.mosiSeq.drop 1).take s.ses.aw.toNat) 0 s
    have hf : s.startAddr.2 = { s with free := f } := hf
    dsimp only
    rw [hf]
    split <;> rfl

theorem interpret_effect (s : State) : CommandEffect s (interpret s) := by
  unfold interpret
  split
  · exact dataCmd_effect _ s
  · exact .toggled _ _ rfl rfl rfl rfl
  · exact .noted s.free _ rfl rfl rfl
  · exact .noted s.free _ rfl rfl rfl

/-- The width after the dispatch: a toggle's, or the old one. -/
theorem interpret_aw (s : State) :
    (interpret s).ses = s.ses ∨ ∃ g, s.build.tables.kindOf s.txn.cmd = .toggle g ∧ interpret s = toggleCmd (newWidth g) s := by
  unfold interpret
  split
  · exact .inl (dataCmd_ses _ s)
  · next g hg => exact .inr ⟨g, hg, rfl⟩
  · exact .inl rfl
  · exact .inl rfl

theorem interpret_data {s : State} {d : DataEntry} (h : s.build.tables.data.lookup s.txn.cmd = some d) :
    interpret s = dataCmd d.overhead s := by
  unfold interpret Tables.kindOf; rw [h]

/-- An entry's width that fits the register is written as it is. -/
theorem newWidth_toNat {g : ToggleEntry} (h : g.newAw < 8) : (newWidth g).toNat = g.newAw := by
  simp [newWidth, Nat.mod_eq_of_lt h]

/-- An entry that the check of R155 accepts writes its own number. -/
theorem newWidth_of_legal {g : ToggleEntry} (h : legalWidth g.newAw = true) : (newWidth g).toNat = g.newAw := by
  simp only [legalWidth, Bool.and_eq_true, decide_eq_true_eq] at h
  exact newWidth_toNat (by omega)

/-- A command row of the opcode table acts as the dispatch of R134 on the byte it stands for. -/
theorem interpret_of_decode {s : State} {i : Instr} (h : decodeCommand s.build.tables s.txn.cmd = .ok i) :
    (i = .read ∧ interpret s = dataCmd 0 s) ∨ (i = .fastRead ∧ interpret s = dataCmd 1 s)
      ∨ (i = .quadRead ∧ interpret s = dataCmd 2 s) ∨ (i = .en4b ∧ interpret s = toggleCmd 4#3 s)
      ∨ (i = .ex4b ∧ interpret s = toggleCmd 3#3 s) ∨ (i = .control s.txn.cmd ∧ interpret s = controlCmd s.txn.cmd s)
      ∨ (i = .unrecognized s.txn.cmd ∧ interpret s = unrecognizedCmd s.txn.cmd s) := by
  unfold decodeCommand at h
  unfold interpret
  cases hk : s.build.tables.kindOf s.txn.cmd with
  | data d =>
    simp only [hk] at h ⊢
    split_ifs at h with h1 h2 h3 <;> cases h
    · simp [h1.2.2]
    · simp [h2.2.2]
    · simp [h3.2.2]
  | toggle g =>
    simp only [hk] at h ⊢
    split_ifs at h with h1 h2 <;> cases h
    · simp [newWidth, h1.2]
    · simp [newWidth, h2.2]
  | control n => simp only [hk] at h ⊢; cases h; simp
  | unrecognized => simp only [hk] at h ⊢; cases h; simp

/-- The end of a transaction: degenerate, or one command effect between the closing writes and the choice of fsm. -/
theorem endTxn_effect (s : State) :
    (s.txn.nclk = 0 ∧ endTxn s = settleFsm (closeWindow s))
      ∨ (0 < s.txn.nclk ∧ endTxn s = settleFsm (interpret (closeWindow s))) := by
  unfold endTxn
  dsimp only
  have h : (closeWindow s).txn.nclk = s.txn.nclk := rfl
  rw [h]
  rcases Nat.eq_zero_or_pos s.txn.nclk with h0 | h0
  · left; simp [h0]
  · right; simp [h0]

end Sys2Proof.Machine
end

