-- ==== Sys2Proof/Laws/PerInstr.lean ====
section
/-! SUPPORT. One statement per instruction: its code word has the fixed bits of its row in spec/opcode_table.json. -/

namespace Sys2Proof.Laws

/-- The mask and match of the instruction's row, as the opcode table has them; EX4B's byte is the build parameter (R130). -/
def opcodeRow (t : Tables) : Instr → Byte × Byte
  | .read => (0xFF#8, 0x03#8)
  | .fastRead => (0xFF#8, 0x0B#8)
  | .quadRead => (0xFF#8, 0xEB#8)
  | .en4b => (0xFF#8, 0xB7#8)
  | .ex4b => (0xFF#8, t.ex4bOpcode)
  | .control _ => (0x00#8, 0x00#8)
  | .unrecognized _ => (0x00#8, 0x00#8)
  | .evEos _ => (0x40#8, 0x40#8)
  | .evPrime _ => (0x60#8, 0x00#8)
  | .evCsAssert _ => (0x7C#8, 0x24#8)
  | .beginFresh _ => (0x7C#8, 0x24#8)
  | .beginCont _ => (0x7C#8, 0x24#8)
  | .evCsDeassert _ => (0x7C#8, 0x38#8)
  | .evClk => (0x7F#8, 0x3D#8)
  | .singleEdge => (0x7F#8, 0x3D#8)
  | .quadHigh => (0x7F#8, 0x3D#8)
  | .quadLow => (0x7F#8, 0x3D#8)
  | .evNone _ => (0x00#8, 0x00#8)

/-- The word of the encoding has the row's fixed bits, for the tables of every build. -/
def EncodingMatchesRow.Statement (i : Instr) : Prop :=
  ∀ t : Tables, (encode t i).word &&& (opcodeRow t i).1 = (opcodeRow t i).2

namespace EncodingMatchesRow

theorem read : Statement .read := fun _ => (by decide : (0x03#8 &&& 0xFF#8 : Byte) = 0x03#8)
theorem fastRead : Statement .fastRead := fun _ => (by decide : (0x0B#8 &&& 0xFF#8 : Byte) = 0x0B#8)
theorem quadRead : Statement .quadRead := fun _ => (by decide : (0xEB#8 &&& 0xFF#8 : Byte) = 0xEB#8)
theorem en4b : Statement .en4b := fun _ => (by decide : (0xB7#8 &&& 0xFF#8 : Byte) = 0xB7#8)
theorem ex4b : Statement .ex4b := fun t => by
  have h : ∀ c : Byte, c &&& 0xFF#8 = c := by decide
  exact h t.ex4bOpcode
theorem control (c : Byte) : Statement (.control c) := fun _ => BitVec.and_zero
theorem unrecognized (c : Byte) : Statement (.unrecognized c) := fun _ => BitVec.and_zero
theorem evEos (x : BitVec 6) : Statement (.evEos x) := fun _ =>
  (by decide : ∀ x : BitVec 6, ((0b1#1 ++ x).setWidth 8 &&& 0x40#8 : Byte) = 0x40#8) x
theorem evPrime (x : BitVec 5) : Statement (.evPrime x) := fun _ =>
  (by decide : ∀ x : BitVec 5, ((0b00#2 ++ x).setWidth 8 &&& 0x60#8 : Byte) = 0x00#8) x
theorem evCsAssert (clk : BitVec 2) : Statement (.evCsAssert clk) := fun _ =>
  (by decide : ∀ x : BitVec 2, ((0b01001#5 ++ x).setWidth 8 &&& 0x7C#8 : Byte) = 0x24#8) clk
theorem beginFresh (clk : BitVec 2) : Statement (.beginFresh clk) := fun _ =>
  (by decide : ∀ x : BitVec 2, ((0b01001#5 ++ x).setWidth 8 &&& 0x7C#8 : Byte) = 0x24#8) clk
theorem beginCont (clk : BitVec 2) : Statement (.beginCont clk) := fun _ =>
  (by decide : ∀ x : BitVec 2, ((0b01001#5 ++ x).setWidth 8 &&& 0x7C#8 : Byte) = 0x24#8) clk
theorem evCsDeassert (clk : BitVec 2) : Statement (.evCsDeassert clk) := fun _ =>
  (by decide : ∀ x : BitVec 2, ((0b01110#5 ++ x).setWidth 8 &&& 0x7C#8 : Byte) = 0x38#8) clk
theorem evClk : Statement .evClk := fun _ => (by decide : ((0b0111101#7).setWidth 8 &&& 0x7F#8 : Byte) = 0x3D#8)
theorem singleEdge : Statement .singleEdge := fun _ => (by decide : ((0b0111101#7).setWidth 8 &&& 0x7F#8 : Byte) = 0x3D#8)
theorem quadHigh : Statement .quadHigh := fun _ => (by decide : ((0b0111101#7).setWidth 8 &&& 0x7F#8 : Byte) = 0x3D#8)
theorem quadLow : Statement .quadLow := fun _ => (by decide : ((0b0111101#7).setWidth 8 &&& 0x7F#8 : Byte) = 0x3D#8)
theorem evNone (ev : EventVector) : Statement (.evNone ev) := fun _ => BitVec.and_zero

end EncodingMatchesRow

end Sys2Proof.Laws
end

