-- ==== Sys2Proof/Laws/Step.lean ====
section
/-! SUPPORT. What a step can do, said once: the classes of an event vector, and the inversion of a step on a sample. -/

namespace Sys2Proof.Machine

/-! ### The event classes, with the bits they show (R59) -/

/-- What a decoded vector says about the bits of the vector. -/
def vectorFacts (ev : EventVector) : Instr → Bool
  | .evEos _ => bitAt ev 6
  | .evPrime _ => !bitAt ev 6 && !bitAt ev 5
  | .evCsAssert _ => !bitAt ev 6 && bitAt ev 5 && !bitAt ev 4 && !bitAt ev 3 && bitAt ev 2
  | .evCsDeassert _ => !bitAt ev 6 && bitAt ev 5 && bitAt ev 4 && bitAt ev 3 && !bitAt ev 2
  | .evClk => !bitAt ev 6 && bitAt ev 5 && bitAt ev 4 && bitAt ev 3 && bitAt ev 2 && !bitAt ev 1 && bitAt ev 0
  | .evNone _ =>
    !bitAt ev 6 && bitAt ev 5 && !(!bitAt ev 4 && !bitAt ev 3 && bitAt ev 2) && !(bitAt ev 4 && bitAt ev 3 && !bitAt ev 2)
      && !(bitAt ev 4 && bitAt ev 3 && bitAt ev 2 && !bitAt ev 1 && bitAt ev 0)
  | .read => false
  | .fastRead => false
  | .quadRead => false
  | .en4b => false
  | .ex4b => false
  | .control _ => false
  | .unrecognized _ => false
  | .beginFresh _ => false
  | .beginCont _ => false
  | .singleEdge => false
  | .quadHigh => false
  | .quadLow => false

theorem decodeVector_facts : ∀ ev : EventVector, vectorFacts ev (decodeVector ev) = true := by decide

/-! ### The bits of the event vector (R58) -/

theorem vector_bits : ∀ a b c d e f g : Bool,
    bitAt (bit a ++ bit b ++ bit c ++ bit d ++ bit e ++ bit f ++ bit g) 6 = a
      ∧ bitAt (bit a ++ bit b ++ bit c ++ bit d ++ bit e ++ bit f ++ bit g) 5 = b
      ∧ bitAt (bit a ++ bit b ++ bit c ++ bit d ++ bit e ++ bit f ++ bit g) 4 = c
      ∧ bitAt (bit a ++ bit b ++ bit c ++ bit d ++ bit e ++ bit f ++ bit g) 3 = d
      ∧ bitAt (bit a ++ bit b ++ bit c ++ bit d ++ bit e ++ bit f ++ bit g) 2 = e
      ∧ bitAt (bit a ++ bit b ++ bit c ++ bit d ++ bit e ++ bit f ++ bit g) 1 = f
      ∧ bitAt (bit a ++ bit b ++ bit c ++ bit d ++ bit e ++ bit f ++ bit g) 0 = g := by decide

theorem eventVector_6 (s : State) : bitAt s.eventVector 6 = s.io.smp.eos := (vector_bits _ _ _ _ _ _ _).1
theorem eventVector_5 (s : State) : bitAt s.eventVector 5 = s.ed.primed := (vector_bits _ _ _ _ _ _ _).2.1
theorem eventVector_4 (s : State) : bitAt s.eventVector 4 = s.fsm.isOpen := (vector_bits _ _ _ _ _ _ _).2.2.1
theorem eventVector_3 (s : State) : bitAt s.eventVector 3 = s.ed.csaPrev := (vector_bits _ _ _ _ _ _ _).2.2.2.1
theorem eventVector_2 (s : State) : bitAt s.eventVector 2 = s.csaNow := (vector_bits _ _ _ _ _ _ _).2.2.2.2.1
theorem eventVector_1 (s : State) : bitAt s.eventVector 1 = s.ed.sPrev := (vector_bits _ _ _ _ _ _ _).2.2.2.2.2.1
theorem eventVector_0 (s : State) : bitAt s.eventVector 0 = s.sNow := (vector_bits _ _ _ _ _ _ _).2.2.2.2.2.2

/-! ### A step on a sample -/

/-- Everything an event class that does not fault can do to a state whose sample is on the port. -/
inductive EventEffect (s : State) : Instr → State → Prop
  | eos (x : BitVec 6) (eos : s.io.smp.eos = true) : EventEffect s (.evEos x) s.setHalted
  | prime (x : BitVec 5) (eos : s.io.smp.eos = false) (primed : s.ed.primed = false) : EventEffect s (.evPrime x) (latchEdge s)
  | assert (x : BitVec 2) (eos : s.io.smp.eos = false) (primed : s.ed.primed = true) (closed : s.fsm.isOpen = false)
      (prev : s.ed.csaPrev = false) (now : s.csaNow = true) : EventEffect s (.evCsAssert x) (latchEdge (beginTxn s))
  | deassert (x : BitVec 2) (eos : s.io.smp.eos = false) (primed : s.ed.primed = true) (opened : s.fsm.isOpen = true)
      (prev : s.ed.csaPrev = true) (now : s.csaNow = false) : EventEffect s (.evCsDeassert x) (latchEdge (endTxn s))
  | clk (u : State) (eos : s.io.smp.eos = false) (primed : s.ed.primed = true) (opened : s.fsm.isOpen = true)
      (prev : s.ed.csaPrev = true) (now : s.csaNow = true) (low : s.ed.sPrev = false) (high : s.sNow = true)
      (edge : EdgeEffect s u) (fits : exceeds s.build.widths.posW (s.txn.pos + 1) = false) :
      EventEffect s .evClk (latchEdge (u.setPos (s.txn.pos + 1)))
  | clkFault (c : FaultCause) (eos : s.io.smp.eos = false) (primed : s.ed.primed = true) (opened : s.fsm.isOpen = true)
      (fails : clockEdge s = .error c) : EventEffect s .evClk (s.raiseFault c)
  | none (ev : EventVector) (eos : s.io.smp.eos = false) (primed : s.ed.primed = true)
      (noAssert : ¬(s.fsm.isOpen = false ∧ s.ed.csaPrev = false ∧ s.csaNow = true))
      (noDeassert : ¬(s.fsm.isOpen = true ∧ s.ed.csaPrev = true ∧ s.csaNow = false)) : EventEffect s (.evNone ev) (latchEdge s)

/-- Inversion of the six event classes on a state's own vector. -/
theorem exec_event {s t : State} (h : exec (decodeVector s.eventVector) s = .next t) :
    EventEffect s (decodeVector s.eventVector) t := by
  have hf := decodeVector_facts s.eventVector
  cases hd : decodeVector s.eventVector with
  | evEos x =>
    rw [hd] at h hf
    simp only [vectorFacts, eventVector_6] at hf
    cases h
    exact .eos x hf
  | evPrime x =>
    rw [hd] at h hf
    simp only [vectorFacts, eventVector_6, eventVector_5, Bool.and_eq_true, Bool.not_eq_true'] at hf
    cases h
    exact .prime x hf.1 hf.2
  | evCsAssert x =>
    rw [hd] at h hf
    simp only [vectorFacts, eventVector_6, eventVector_5, eventVector_4, eventVector_3, eventVector_2,
      Bool.and_eq_true, Bool.not_eq_true'] at hf
    obtain ⟨⟨⟨⟨a, b⟩, c⟩, d⟩, e⟩ := hf
    cases h
    exact .assert x a b c d e
  | evCsDeassert x =>
    rw [hd] at h hf
    simp only [vectorFacts, eventVector_6, eventVector_5, eventVector_4, eventVector_3, eventVector_2,
      Bool.and_eq_true, Bool.not_eq_true'] at hf
    obtain ⟨⟨⟨⟨a, b⟩, c⟩, d⟩, e⟩ := hf
    cases h
    exact .deassert x a b c d e
  | evClk =>
    rw [hd] at h hf
    simp only [vectorFacts, eventVector_6, eventVector_5, eventVector_4, eventVector_3, eventVector_2, eventVector_1,
      eventVector_0, Bool.and_eq_true, Bool.not_eq_true'] at hf
    obtain ⟨⟨⟨⟨⟨⟨a, b⟩, c⟩, d⟩, e⟩, f⟩, g⟩ := hf
    have h : commit s (clockStep s) = .next t := h
    unfold clockStep at h
    split at h
    · next k hk => cases h; exact .clkFault k a b c hk
    · next v hv =>
      cases h
      obtain ⟨u, hu, hx, rfl⟩ := clockEdge_ok hv
      exact .clk u a b c d e f g hu hx
  | evNone ev =>
    rw [hd] at h hf
    simp only [vectorFacts, eventVector_6, eventVector_5, eventVector_4, eventVector_3, eventVector_2, eventVector_1,
      eventVector_0, Bool.and_eq_true, Bool.not_eq_true'] at hf
    obtain ⟨⟨⟨⟨a, b⟩, c⟩, d⟩, e⟩ := hf
    cases h
    exact .none ev a b (by simp_all) (by simp_all)
  | read => rw [hd] at hf; cases hf
  | fastRead => rw [hd] at hf; cases hf
  | quadRead => rw [hd] at hf; cases hf
  | en4b => rw [hd] at hf; cases hf
  | ex4b => rw [hd] at hf; cases hf
  | control c => rw [hd] at hf; cases hf
  | unrecognized c => rw [hd] at hf; cases hf
  | beginFresh c => rw [hd] at hf; cases hf
  | beginCont c => rw [hd] at hf; cases hf
  | singleEdge => rw [hd] at hf; cases hf
  | quadHigh => rw [hd] at hf; cases hf
  | quadLow => rw [hd] at hf; cases hf

theorem processes_iff (s : State) (smp : Sample) :
    s.processes smp ↔ (s.rc.fault || s.rc.halted) = false ∧ s.tsNotIncreasing smp = false := by
  unfold State.processes State.tsNotIncreasing
  cases s.rc.fault <;> cases s.rc.halted <;> cases smp.eos <;> cases s.ed.primed <;> simp

/-- A processed sample: the step is the event class (R76). -/
theorem step_processed {s : State} {smp : Sample} {rest : List PortInput} (hn : s.nextSample smp rest) (hp : s.processes smp) :
    step s = exec (decodeVector (s.present smp rest).eventVector) (s.present smp rest) := by
  obtain ⟨h1, h2⟩ := (processes_iff s smp).mp hp
  unfold step fetch
  rw [show s.io.input = _ from hn]
  simp only [fetchSample, h1, h2, Bool.false_eq_true, ↓reduceIte]

/-- Inversion of a step on a sample: stopped, a timestamp fault, or one event class. -/
theorem step_sample {s t : State} {smp : Sample} {rest : List PortInput} (hn : s.nextSample smp rest) (h : Steps s t) :
    ((s.rc.fault = true ∨ s.rc.halted = true) ∧ t = s.present smp rest)
      ∨ (s.rc.fault = false ∧ s.rc.halted = false ∧ smp.eos = false ∧ s.ed.primed = true ∧ smp.ts ≤ s.ed.lastTs
          ∧ t = (s.present smp rest).raiseFault (.nonmonotonicTs smp.ts))
      ∨ (s.processes smp ∧ ∃ i, decodeVector (s.present smp rest).eventVector = i ∧ EventEffect (s.present smp rest) i t) := by
  by_cases hp : s.processes smp
  · refine .inr (.inr ⟨hp, _, rfl, exec_event ?_⟩)
    rw [← step_processed hn hp]; exact h
  · unfold Steps step fetch at h
    rw [show s.io.input = _ from hn] at h
    simp only [fetchSample] at h
    cases hs : (s.rc.fault || s.rc.halted) with
    | true =>
      simp only [hs, ↓reduceIte] at h
      cases h
      exact .inl ⟨by simpa using hs, rfl⟩
    | false =>
      have ht : s.tsNotIncreasing smp = true := by
        by_contra hc
        exact hp ((processes_iff s smp).mpr ⟨hs, Bool.eq_false_iff.mpr hc⟩)
      simp only [hs, ht, Bool.false_eq_true, ↓reduceIte] at h
      cases h
      simp only [State.tsNotIncreasing, Bool.and_eq_true, Bool.not_eq_true', decide_eq_true_eq] at ht
      simp only [Bool.or_eq_false_iff] at hs
      exact .inr (.inl ⟨hs.1, hs.2, ht.1.1, ht.1.2, ht.2, rfl⟩)

/-- Inversion of any step: no sample, a reset, or a sample. -/
theorem step_cases {s t : State} (h : Steps s t) :
    (s.io.input = [] ∧ t = s.openStep []) ∨ (∃ rest, s.io.input = .noSample :: rest ∧ t = s.openStep rest)
      ∨ (∃ c rest, s.io.input = .reset c :: rest ∧ t = applyReset c rest s) ∨ ∃ smp rest, s.nextSample smp rest := by
  unfold Steps step fetch at h
  split at h
  · next hd =>
    split at hd
    · next hi => cases hd; cases h; exact .inl ⟨hi, rfl⟩
    · next rest hi => cases hd; cases h; exact .inr (.inl ⟨rest, hi, rfl⟩)
    · next c rest hi => cases hd; cases h; exact .inr (.inr (.inl ⟨c, rest, hi, rfl⟩))
    · next smp rest hi => exact .inr (.inr (.inr ⟨smp, rest, hi⟩))
  · next hd =>
    split at hd
    · cases hd
    · cases hd
    · cases hd
    · next smp rest hi => exact .inr (.inr (.inr ⟨smp, rest, hi⟩))

end Sys2Proof.Machine
end

