-- ==== Sys2Proof/Machine/Render.lean ====
section
/-! DEFINITION. The host's rendering of records (spec/44_output_events.md R144 to R147). It is outside the block; no step uses
it. Text the spec leaves open is an opaque constant (log 11, log 12). -/

namespace Sys2Proof.Machine

/-- An uppercase hexadecimal digit. -/
def hexDigit (n : Nat) : Char := if n < 10 then Char.ofNat (48 + n) else Char.ofNat (55 + n)

/-- The value's low hexadecimal digits, most significant first, zero-padded to the given number. -/
def hexDigits : Nat → Nat → List Char
  | 0, _ => []
  | k + 1, v => hexDigits k (v / 16) ++ [hexDigit (v % 16)]

/-- Fixed-width uppercase hexadecimal text (R145, R146). -/
def hexText (digits v : Nat) : String := String.ofList (hexDigits digits v)

/-- The descriptor's name, found from the command byte in the static tables (R67). -/
def nameOf (t : Tables) (c : Byte) : String :=
  match t.kindOf c with
  | .data d => d.name
  | .toggle g => g.name
  | .control n => n
  | .unrecognized => "0x" ++ hexText 2 c.toNat

/-- The message of a data command; a count of 0 or less and an end address that does not fit are open (I3,
log 12). -/
def dataMessage (name : String) (aw : Nat) (r : DataRange) : String :=
  if 0 < r.count ∧ 0 ≤ r.addrEnd ∧ r.addrEnd < (16 ^ (2 * aw) : Nat) then
    name ++ " 0x" ++ hexText (2 * aw) r.addrStart.toNat ++ " - 0x" ++ hexText (2 * aw) r.addrEnd.toNat ++ " ("
      ++ Nat.repr r.count.toNat ++ " data bytes)"
  else Config.openText name aw r.addrStart r.count r.addrEnd

/-- The annotation text, R145. -/
def AnnRecord.message (t : Tables) (r : AnnRecord) : String :=
  match r.kind with
  | .dataCmd =>
    match r.range with
    | some d => dataMessage (nameOf t r.cmd) r.aw.toNat d
    | none => Config.openText (nameOf t r.cmd) r.aw.toNat 0#32 0 0
  | .toggle => nameOf t r.cmd
  | .control => nameOf t r.cmd
  | .unrecognized => "0x" ++ hexText 2 r.cmd.toNat
  | .truncated => Config.errorText

/-- A value on the binary channel, or the text of a byte, with its span. -/
structure ByteEvent (α : Type) where
  cat : Category
  value : α
  startTs : Nat
  endTs : Nat
  deriving DecidableEq, Repr

/-- A lane's byte, when it is valid. -/
def laneEvent (cat : Category) (startTs endTs : Nat) : Entry → List (ByteEvent Byte)
  | .byte v => [⟨cat, v, startTs, endTs⟩]
  | .empty => []

/-- The binary channel, R144: the MISO byte, then the MOSI byte, each only when valid. -/
def ByteRecord.binary (r : ByteRecord) : List (ByteEvent Byte) :=
  laneEvent .misoData r.startTs r.endTs r.miso ++ laneEvent .mosiData r.startTs r.endTs r.mosi

/-- The byte texts, R146. -/
def ByteRecord.texts (r : ByteRecord) : List (ByteEvent String) :=
  r.binary.map fun e => ⟨e.cat, hexText 2 e.value.toNat, e.startTs, e.endTs⟩

/-- The rendered annotation with its category and span, R147. -/
def AnnRecord.rendered (t : Tables) (r : AnnRecord) : ByteEvent String := ⟨r.cat, r.message t, r.startTs, r.endTs⟩

end Sys2Proof.Machine
end

