-- ==== Sys2Proof/Tests/Slice0.lean ====
section
/-! SUPPORT. The model's own tests. Expected values are the examples and vectors of spec/ or worked out by hand from its rules;
each test names its source. The last part shows, for every statement with hypotheses, a state and operands that meet them. -/

namespace Sys2Proof.Tests

open Sys2Proof.Machine

/-! ### Small states -/

/-- The next state of an outcome. -/
def nextOr (s : State) : Host.Outcome State Fault Refusal → State
  | .next t => t
  | .fault _ => s
  | .refused _ => s

/-- The state after an instruction. -/
def after (i : Instr) (s : State) : State := nextOr s (exec i s)

/-- The state after a step. -/
def stepped (s : State) : State := nextOr s (step s)

/-- A sample. -/
def smp (ts : Nat) (l : Lines) : Sample := { ts := ts, eos := false, lines := l }

/-- The sample is on the port. -/
def onPort (ts : Nat) (l : Lines) (s : State) : State := s.present (smp ts l) []

/-- The sample comes next. -/
def coming (ts : Nat) (l : Lines) (s : State) : State := { s with io := { s.io with input := [.sample (smp ts l)] } }

/-- Primed with chip-select high at ts 0. -/
def idleState : State := { State.reset with ed := { primed := true, csaPrev := false, sPrev := false, lastTs := 0 } }

/-- An open transaction that started at ts 1, the last sample at ts 10. -/
def openState (f : Fsm) : State :=
  { State.reset with
    fsm := f
    ed := { primed := true, csaPrev := true, sPrev := false, lastTs := 10 }
    txn := { State.reset.txn with startTs := 1 } }

/-- CMD_PHASE with some bits of the command byte. -/
def inCommand (n : Nat) (acc : Byte) : State :=
  { openState .cmdPhase with
    txn := { (openState .cmdPhase).txn with pos := n }
    la := { State.reset.la with saccMosi := acc, saccMiso := 0xFF#8, sbits := BitVec.ofNat 4 n, bstart := 3 } }

/-- DATA_PHASE on the SINGLE path with whole bytes in the buffers. -/
def inData (c : Byte) (rest : List Byte) : State :=
  { openState .dataPhase with
    txn := { (openState .dataPhase).txn with
      cmd := c, cmdValid := true, pos := 8 * (1 + rest.length), nclk := 1 + rest.length
      mosiSeq := .byte c :: rest.map Entry.byte, misoSeq := .byte 0xFF#8 :: rest.map Entry.byte } }

/-- DATA_PHASE of a Quad Read with the four bytes a quad command sends before position 16, as far as they are given. -/
def inQuad (bytes : List Byte) (pos : Nat) (half : Bool) (hi : Nibble) : State :=
  { openState .dataPhase with
    txn := { (openState .dataPhase).txn with
      cmd := 0xEB#8, cmdValid := true, quadEn := true, qs := 8#4, dc := 4, pos := pos, nclk := 1 + bytes.length
      mosiSeq := .byte 0xEB#8 :: bytes.map Entry.byte, misoSeq := .byte 0xFF#8 :: bytes.map (fun _ => Entry.empty) }
    la := { State.reset.la with qhi := hi, qhalf := half, bstart := 9 } }

/-- The same with the quad lines absent. -/
def noQuadLines (s : State) : State := { s with cfg := { s.cfg with hasQuad := false } }

/-- The same with narrow counters. -/
def narrow (p c : Option Nat) (s : State) : State := { s with build := { s.build with widths := ⟨none, p, c⟩ } }

/-- The example build of R132. -/
def ctrlTables : Tables := { Tables.standard with ctrl := [(0x06#8, "Write Enable")] }

/-! ### Well-formedness: an ill-formed term for each check -/

/-- 0b1000000 is EV_EOS, not EV_NONE (R59) -/
theorem test_wf_vector_of_an_earlier_row : (Instr.evNone 0b1000000#7).wellFormed Tables.standard = false := by decide

theorem test_wf_each_earlier_row : (Instr.evNone 0b0000100#7).wellFormed Tables.standard = false
      ∧ (Instr.evNone 0b0100100#7).wellFormed Tables.standard = false
      ∧ (Instr.evNone 0b0111000#7).wellFormed Tables.standard = false
      ∧ (Instr.evNone 0b0111101#7).wellFormed Tables.standard = false := by decide

/-- CTRL_TABLE is empty by default (R132) -/
theorem test_wf_control_needs_the_table : (Instr.control 0x06#8).wellFormed Tables.standard = false
      ∧ (Instr.control 0x06#8).wellFormed ctrlTables = true :=
  by decide

theorem test_wf_control_key_of_data : (Instr.control 0x03#8).wellFormed { ctrlTables with ctrl := [(0x03#8, "x")] } = false :=
  by decide

theorem test_wf_unrecognized_key : (Instr.unrecognized 0x03#8).wellFormed Tables.standard = false
      ∧ (Instr.unrecognized 0xB7#8).wellFormed Tables.standard = false
      ∧ (Instr.unrecognized 0x06#8).wellFormed ctrlTables = false := by decide

theorem test_wf_data_rows_need_the_descriptor : Instr.read.wellFormed { Tables.standard with data := [] } = false
      ∧ Instr.fastRead.wellFormed { Tables.standard with data := [(0x0B#8, ⟨"x", 1, 2⟩)] } = false
      ∧ Instr.quadRead.wellFormed { Tables.standard with data := [(0xEB#8, ⟨"x", 1, 2⟩)] } = false := by decide

theorem test_wf_toggle_rows_need_the_descriptor :
    Instr.en4b.wellFormed { Tables.standard with toggle := [(0xB7#8, ⟨"x", 3⟩)] } = false
      ∧ Instr.ex4b.wellFormed { Tables.standard with toggle := [] } = false
      ∧ Instr.en4b.wellFormed { Tables.standard with data := [(0xB7#8, ⟨"x", 1, 0⟩)] } = false := by decide

/-! ### Decoding: words written out from the rows of R59 and the command bytes of R119 to R130 -/

theorem test_decode_commands : decode Tables.standard (.command 0b00000011#8) = .ok .read
      ∧ decode Tables.standard (.command 0b00001011#8) = .ok .fastRead
      ∧ decode Tables.standard (.command 0b11101011#8) = .ok .quadRead
      ∧ decode Tables.standard (.command 0b10110111#8) = .ok .en4b
      ∧ decode Tables.standard (.command 0b11101001#8) = .ok .ex4b := by decide

theorem test_decode_control : decode ctrlTables (.command 0b00000110#8) = .ok (.control 0x06#8) := by decide

theorem test_decode_unrecognized : decode Tables.standard (.command 0b10011111#8) = .ok (.unrecognized 0x9F#8) :=
  by decide

/-- 1xxxxxx -/
theorem test_decode_eos : decode Tables.standard (.vector 0b1010110#7) = .ok (.evEos 0b010110#6) := by decide

/-- 00xxxxx -/
theorem test_decode_prime : decode Tables.standard (.vector 0b0010110#7) = .ok (.evPrime 0b10110#5) := by decide

/-- 01001xx -/
theorem test_decode_assert : decode Tables.standard (.vector 0b0100101#7) = .ok (.evCsAssert 0b01#2) := by decide

/-- 01110xx -/
theorem test_decode_deassert : decode Tables.standard (.vector 0b0111010#7) = .ok (.evCsDeassert 0b10#2) := by decide

/-- 0111101 -/
theorem test_decode_clk : decode Tables.standard (.vector 0b0111101#7) = .ok .evClk := by decide

theorem test_decode_none : decode Tables.standard (.vector 0b0111110#7) = .ok (.evNone 0b0111110#7)
      ∧ decode Tables.standard (.vector 0b0101000#7) = .ok (.evNone 0b0101000#7) := by decide

theorem test_decode_splits : decode Tables.standard (.split 0b0100111#7 (.cont false)) = .ok (.beginFresh 0b11#2)
      ∧ decode Tables.standard (.split 0b0100111#7 (.cont true)) = .ok (.beginCont 0b11#2)
      ∧ decode Tables.standard (.split 0b0111101#7 .single) = .ok .singleEdge
      ∧ decode Tables.standard (.split 0b0111101#7 (.quad false)) = .ok .quadHigh
      ∧ decode Tables.standard (.split 0b0111101#7 (.quad true)) = .ok .quadLow := by decide

theorem test_decode_rejects :
    decode Tables.standard (.split 0b0111101#7 (.cont true)) = .error (.noSuchSplit 0b0111101#7 (.cont true))
      ∧ decode { Tables.standard with data := [(0x3B#8, ⟨"x", 1, 1⟩)] } (.command 0x3B#8) = .error (.entryWithoutRow 0x3B#8) :=
  by decide

theorem test_table_words_out_of_range : decodeTableWord 8 256 = none ∧ decodeTableWord 16 3 = none := by decide

/-! ### A step runs the word that withFetchWord places, as the first step after reset -/

theorem test_fetch_read :
    ((stepped (State.reset.withFetchWord 8 0x03)).io.aev.map fun r => (r.kind, r.cmd)) = some (.dataCmd, 0x03#8) :=
  by decide

theorem test_fetch_fast_read :
    ((stepped (State.reset.withFetchWord 8 0x0B)).io.aev.map fun r => (r.kind, r.cmd)) = some (.dataCmd, 0x0B#8) :=
  by decide

theorem test_fetch_quad_read :
    ((stepped (State.reset.withFetchWord 8 0xEB)).io.aev.map fun r => (r.kind, r.cmd)) = some (.dataCmd, 0xEB#8) :=
  by decide

theorem test_fetch_en4b :
    ((stepped (State.reset.withFetchWord 8 0xB7)).io.aev.map fun r => (r.kind, r.cmd)) = some (.toggle, 0xB7#8) :=
  by decide

theorem test_fetch_ex4b :
    ((stepped (State.reset.withFetchWord 8 0xE9)).io.aev.map fun r => (r.kind, r.cmd)) = some (.toggle, 0xE9#8) :=
  by decide

theorem test_fetch_unrecognized :
    ((stepped (State.reset.withFetchWord 8 0x9F)).io.aev.map fun r => (r.kind, r.cmd)) = some (.unrecognized, 0x9F#8) :=
  by decide

theorem test_fetch_events :
    step (State.reset.withFetchWord 8 0x40) = exec (.evEos 0#6) ((State.reset.withFetchWord 8 0x40).present { ts := 1, eos := true, lines := 0b000001#6 } [])
      ∧ step (State.reset.withFetchWord 8 0x24) = exec (.evCsAssert 0#2) ((State.reset.withFetchWord 8 0x24).present (smp 1 0b000000#6) [])
      ∧ step (State.reset.withFetchWord 8 0x3D) = exec .evClk ((State.reset.withFetchWord 8 0x3D).present (smp 1 0b000010#6) []) :=
  ⟨rfl, rfl, rfl⟩

/-! ### Reset and configuration (R166, R155) -/

theorem test_reset : State.reset.ses.aw = 3#3 ∧ State.reset.ses.cont = false ∧ State.reset.fsm = .idle
      ∧ State.reset.rc.fault = false
      ∧ State.reset.txn.mosiSeq = [] ∧ State.reset.ed.primed = false := by decide

theorem test_config_invalid :
    (State.resetWith Build.standard { Configuration.standard with wordSize := 9#8 }).rc = ⟨false, true, 4#4⟩
      ∧ (State.resetWith Build.standard { Configuration.standard with awInit := 0#3 }).rc = ⟨false, true, 4#4⟩
      ∧ (State.resetWith Build.standard { Configuration.standard with awInit := 5#3 }).rc = ⟨false, true, 4#4⟩
      ∧ (State.resetWith Build.standard { Configuration.standard with awInit := 4#3 }).rc = ⟨false, false, 0#4⟩ :=
  by decide

/-- One build for each condition on the tables (R155) -/
theorem test_table_conditions :
    configValid ⟨{ Tables.standard with data := [(0xB7#8, ⟨"x", 1, 0⟩)], quad := [] }, ⟨none, none, none⟩⟩ Configuration.standard = false
      ∧ configValid ⟨{ Tables.standard with data := [(0x03#8, ⟨"x", 2, 0⟩)], quad := [] }, ⟨none, none, none⟩⟩ Configuration.standard = false
      ∧ configValid ⟨{ Tables.standard with quad := [] }, ⟨none, none, none⟩⟩ Configuration.standard = false
      ∧ configValid ⟨{ Tables.standard with quad := [(0xEB#8, 5)] }, ⟨none, none, none⟩⟩ Configuration.standard = false
      ∧ configValid ⟨{ Tables.standard with quad := [(0xEB#8, 6)] }, ⟨none, none, none⟩⟩ Configuration.standard = false
      ∧ configValid ⟨{ Tables.standard with quad := [(0xEB#8, 4), (0x03#8, 0)] }, ⟨none, none, none⟩⟩ Configuration.standard = false
      ∧ configValid ⟨{ Tables.standard with toggle := [(0xB7#8, ⟨"x", 5⟩)] }, ⟨none, none, none⟩⟩ Configuration.standard = false
      ∧ configValid ⟨{ Tables.standard with toggle := [(0xB7#8, ⟨"x", 12⟩)] }, ⟨none, none, none⟩⟩ Configuration.standard = false :=
  by decide

/-! ### Event classes -/

/-- R77, example -/
theorem test_evPrime :
    (after (.evPrime 0#5) (onPort 0 0x00#6 State.reset)).ed = { primed := true, csaPrev := true, sPrev := false, lastTs := 0 }
      ∧ (after (.evPrime 0#5) (onPort 0 0x00#6 State.reset)).fsm = .idle := by decide

/-- R84, example -/
theorem test_evNone_falling_clock :
    (after (.evNone 0#7) (onPort 11 0x04#6 { openState .cmdPhase with ed := { primed := true, csaPrev := true, sPrev := true, lastTs := 10 } })).ed.sPrev = false :=
  by decide

/-- R85, example -/
theorem test_evEos_drops_the_transaction : (after (.evEos 0#6) (inData 0x03#8 [1#8, 2#8])).rc.halted = true
      ∧ (after (.evEos 0#6) (inData 0x03#8 [1#8, 2#8])).io.aev = none
      ∧ (after (.evEos 0#6) (inData 0x03#8 [1#8, 2#8])).fsm = .dataPhase :=
  by decide

/-- R80, example -/
theorem test_evCsAssert : (stepped (coming 1 0x00#6 idleState)).txn.startTs = 1
      ∧ (stepped (coming 1 0x00#6 idleState)).fsm = .cmdPhase
      ∧ (stepped (coming 1 0x00#6 idleState)).txn.pos = 0 := by decide

/-- R83, vector E2: the clock edge of the assertion sample is not sampled -/
theorem test_assert_with_clock_edge : (stepped (coming 1 0x02#6 idleState)).la.sbits = 0#4
      ∧ (stepped (coming 1 0x02#6 idleState)).fsm = .cmdPhase :=
  by decide

/-- R102, example -/
theorem test_beginFresh : (after (.beginFresh 0#2) (onPort 1 0#6 (inData 0x03#8 [7#8]))).txn.mosiSeq = []
      ∧ (after (.beginFresh 0#2) (onPort 1 0#6 (inData 0x03#8 [7#8]))).txn.cmdValid = false :=
  by decide

/-- R103, example -/
theorem test_beginCont :
    (after (.beginCont 0#2) (onPort 200 0#6 (inQuad [0x00#8, 0x10#8, 0x00#8, 0xA0#8] 16 false 0#4))).txn.mosiSeq = [.byte 0xEB#8]
      ∧ (after (.beginCont 0#2) (onPort 200 0#6 (inQuad [] 8 false 0#4))).txn.misoSeq = [.byte 0xEB#8]
      ∧ (after (.beginCont 0#2) (onPort 200 0#6 (inQuad [] 8 false 0#4))).txn.pos = 8
      ∧ (after (.beginCont 0#2) (onPort 200 0#6 (inQuad [] 8 false 0#4))).fsm = .dataPhase := by decide

/-- R81 and R114, example: 8 bytes and 3 bits, closing at ts 130 -/
theorem test_evCsDeassert : (stepped (coming 130 0x01#6 { inData 0x03#8 [0x00#8, 0x10#8, 0x00#8, 1#8, 2#8, 3#8, 4#8] with
        la := { State.reset.la with sbits := 3#4 } })).io.aev =
        some { cat := .dataCommand, kind := .dataCmd, cmd := 0x03#8, cont := false, startTs := 1, endTs := 130, aw := 3#3
               range := some { addrStart := 0x001000#32, count := 4, addrEnd := 0x001003 } }
      ∧ (stepped (coming 130 0x01#6 { inData 0x03#8 [0x00#8, 0x10#8, 0x00#8, 1#8, 2#8, 3#8, 4#8] with
        la := { State.reset.la with sbits := 3#4 } })).la.sbits = 0#4 := by decide

/-- R83, vector E3 -/
theorem test_deassert_wins_over_the_clock : (stepped (coming 11 0x0F#6 (inCommand 7 0x5B#8))).txn.nclk = 0
      ∧ (stepped (coming 11 0x0F#6 (inCommand 7 0x5B#8))).fsm = .idle :=
  by decide

/-- R82, example -/
theorem test_evClk_first_bit : (stepped (coming 11 0x06#6 (inCommand 0 0#8))).la.saccMosi = 1#8
      ∧ (stepped (coming 11 0x06#6 (inCommand 0 0#8))).txn.pos = 1 :=
  by decide

/-- R105, example -/
theorem test_evClk_captures : (stepped (coming 11 0x06#6 (inCommand 7 0b1110101#8))).txn.cmd = 0xEB#8
      ∧ (stepped (coming 11 0x06#6 (inCommand 7 0b1110101#8))).onQuadPath = true
      ∧ (stepped (coming 11 0x06#6 (inCommand 7 0b1110101#8))).txn.dc = 4 :=
  by decide

/-! ### The lane assembler -/

/-- R88, example, the last of the eight edges -/
theorem test_singleEdge_msb_first : (after .singleEdge (onPort 11 0x0E#6 (inCommand 7 0b0000001#8))).txn.mosiSeq = [.byte 0x03#8]
      ∧ (after .singleEdge (onPort 11 0x0E#6 (inCommand 7 0b0000001#8))).txn.misoSeq = [.byte 0xFF#8] := by decide

/-- R88, example with BIT_ORDER = 1 -/
theorem test_singleEdge_lsb_first :
    (after .singleEdge (onPort 11 0x0E#6 { inCommand 7 0b10000000#8 with cfg := { Configuration.standard with bitOrder := true } })).txn.mosiSeq = [.byte 0xC0#8] :=
  by decide

/-- R91, example -/
theorem test_quadHigh : (after .quadHigh (onPort 11 0b101000#6 (inQuad [] 14 false 0#4))).la.qhi = 0xA#4
      ∧ (after .quadHigh (onPort 11 0b101000#6 (inQuad [] 14 false 0#4))).la.qhalf = true :=
  by decide

/-- R92, example -/
theorem test_quadLow : (after .quadLow (onPort 11 0#6 (inQuad [] 15 true 0xA#4))).txn.mosiSeq = [.byte 0xEB#8, .byte 0xA0#8]
      ∧ (after .quadLow (onPort 11 0#6 (inQuad [] 15 true 0xA#4))).txn.misoSeq = [.byte 0xFF#8, .empty] := by decide

/-- R94 -/
theorem test_quadLow_past_the_threshold :
    (after .quadLow (onPort 11 0#6 (inQuad [] 17 true 0xA#4))).txn.misoSeq = [.byte 0xFF#8, .byte 0xA0#8] :=
  by decide

/-- R158 -/
theorem test_quad_lines_absent :
    (after .quadHigh (onPort 11 0#6 (noQuadLines (inQuad [] 8 false 0#4)))).rc = ⟨false, true, 2#4⟩ :=
  by decide

/-- R110, example: 0xA5 sets cont, 0x5A clears it -/
theorem test_continuation_check : (stepped (coming 11 0b010110#6 (inQuad [0#8, 0#8, 0#8] 15 true 0xA#4))).ses.cont = true
      ∧ (stepped (coming 11 0b101010#6 (inQuad [0#8, 0#8, 0#8] 15 true 0x5#4))).ses.cont = false := by decide

/-- R159 with POS_W = 3: position 8 does not fit, no byte completes -/
theorem test_counter_overflow : (stepped (coming 11 0x06#6 (narrow (some 3) none (inCommand 7 0x00#8)))).rc = ⟨false, true, 3#4⟩
      ∧ (stepped (coming 11 0x06#6 (narrow (some 3) none (inCommand 7 0x00#8)))).txn.mosiSeq = [] := by decide

/-! ### The command interpreter -/

/-- R119, example -/
theorem test_read : (after .read (inData 0x03#8 [0x00#8, 0x10#8, 0x00#8, 1#8, 2#8, 3#8, 4#8])).io.aev.bind (fun r => r.range) =
      some { addrStart := 0x001000#32, count := 4, addrEnd := 0x001003 } := by decide

/-- R126, vector E2 -/
theorem test_read_of_no_data : (after .read (inData 0x03#8 [0x00#8, 0x10#8, 0x00#8])).io.aev.bind (fun r => r.range) =
      some { addrStart := 0x001000#32, count := 0, addrEnd := 0x000FFF } := by decide

/-- R120, example -/
theorem test_fastRead :
    (after .fastRead (inData 0x0B#8 [0x00#8, 0x10#8, 0x00#8, 0xFF#8, 1#8, 2#8, 3#8, 4#8])).io.aev.bind (fun r => r.range) =
      some { addrStart := 0x001000#32, count := 4, addrEnd := 0x001003 } := by decide

/-- R121, example -/
theorem test_quadRead :
    (after .quadRead (inQuad [0x00#8, 0x10#8, 0x00#8, 0xA0#8, 0x00#8, 0x11#8, 0x22#8, 0x33#8, 0x44#8] 26 false 0#4)).io.aev.bind (fun r => r.range) =
      some { addrStart := 0x001000#32, count := 4, addrEnd := 0x001003 } := by decide

/-- R123: T = 3 < 1 + aw -/
theorem test_truncated :
    ((after .read (inData 0x03#8 [0x00#8, 0x10#8])).io.aev.map fun r => (r.cat, r.kind, r.range)) = some (.error, .truncated, none) :=
  by decide

/-- R127, program P4: MAX_ADDR 0x1FFF, start 0x2000 -/
theorem test_filter :
    (after .read { inData 0x03#8 [0x00#8, 0x20#8, 0x00#8] with cfg := { Configuration.standard with maxAddr := 0x1FFF#32 } }).io.aev = none :=
  by decide

/-- R129, example; V4 -/
theorem test_en4b : (after .en4b (inData 0xB7#8 [])).ses.aw = 4#3
      ∧ ((after .en4b (inData 0xB7#8 [])).io.aev.map fun r => (r.cat, r.aw)) = some (.controlCommand, 3#3) :=
  by decide

/-- R130, example -/
theorem test_ex4b : (after .ex4b { inData 0xE9#8 [] with ses := { aw := 4#3, cont := false } }).ses.aw = 3#3 := by decide

/-- R132, example -/
theorem test_control :
    ((after (.control 0x06#8) { inData 0x06#8 [] with build := ⟨ctrlTables, ⟨none, none, none⟩⟩ }).io.aev.map fun r => (r.cat, r.kind, r.cmd)) =
      some (.controlCommand, .control, 0x06#8) := by decide

/-- R133, example -/
theorem test_unrecognized :
    ((after (.unrecognized 0x9F#8) (inData 0x9F#8 [0xEF#8, 0x40#8, 0x18#8])).io.aev.map fun r => (r.cat, r.kind, r.cmd)) =
      some (.controlCommand, .unrecognized, 0x9F#8) := by decide

/-! ### Rendering (R144 to R147) -/

/-- V1 -/
theorem test_message_read : AnnRecord.message Tables.standard
      { cat := .dataCommand, kind := .dataCmd, cmd := 0x03#8, cont := false, startTs := 1, endTs := 130, aw := 3#3
        range := some { addrStart := 0x1000#32, count := 4, addrEnd := 0x1003 } } = "Read 0x001000 - 0x001003 (4 data bytes)" :=
  by decide

/-- R145, examples of R133, R132, R130 -/
theorem test_names : nameOf Tables.standard 0x9F#8 = "0x9F" ∧ nameOf ctrlTables 0x06#8 = "Write Enable"
      ∧ nameOf Tables.standard 0xE9#8 = "Exit 4 Byte Address" :=
  by decide

/-! ### Witnesses: the hypotheses of each statement, met together -/

theorem witness_StepRunsTheDecodedInstruction : (coming 0 0#6 State.reset).nextSample (smp 0 0#6) []
      ∧ (coming 0 0#6 State.reset).processes (smp 0 0#6)
      ∧ decode (coming 0 0#6 State.reset).build.tables
          (.vector ((coming 0 0#6 State.reset).present (smp 0 0#6) []).eventVector) = .ok (.evPrime 0b00100#5) :=
  ⟨rfl, ⟨rfl, rfl, .inr (.inl rfl)⟩, by decide⟩

theorem witness_EventClassesByPriority : (∃ x, decodeVector 0b1000000#7 = .evEos x) ∧ (∃ x, decodeVector 0b0011111#7 = .evPrime x)
      ∧ (∃ x, decodeVector 0b0100100#7 = .evCsAssert x) ∧ (∃ x, decodeVector 0b0111011#7 = .evCsDeassert x)
      ∧ decodeVector 0b0111101#7 = .evClk ∧ decodeVector 0b0101100#7 = .evNone 0b0101100#7
      ∧ decodeVector 0b0100000#7 = .evNone 0b0100000#7 ∧ decodeVector 0b0110100#7 = .evNone 0b0110100#7
      ∧ decodeVector 0b0111111#7 = .evNone 0b0111111#7 ∧ decodeVector 0b0111100#7 = .evNone 0b0111100#7 :=
  ⟨⟨_, rfl⟩, ⟨_, rfl⟩, ⟨_, rfl⟩, ⟨_, rfl⟩, by decide, by decide, by decide, by decide, by decide, by decide⟩

theorem witness_DecodeEncodeRoundTrip :
    [Instr.read, .fastRead, .quadRead, .en4b, .ex4b, .control 0x06#8, .unrecognized 0x9F#8, .evEos 63#6, .evPrime 31#5, .evCsAssert 3#2,
      .beginFresh 3#2, .beginCont 3#2, .evCsDeassert 3#2, .evClk, .singleEdge, .quadHigh, .quadLow, .evNone 0b0111111#7].all
      (fun i => i.wellFormed ctrlTables) = true := by decide

theorem witness_EncodeDecodeRoundTrip : decode Tables.standard (.command 0xFF#8) = .ok (.unrecognized 0xFF#8)
      ∧ decode Tables.standard (.split 0b0100100#7 (.cont true)) = .ok (.beginCont 0#2) := by decide

theorem witness_StoppedBlockIgnoresSamples : (coming 0 0#6 State.reset.setHalted).nextSample (smp 0 0#6) []
      ∧ (coming 0 0#6 State.reset.setHalted).rc.halted = true
      ∧ (coming 0 0#6 (State.reset.raiseFault (.quadLinesAbsent 8))).rc.fault = true := ⟨rfl, rfl, rfl⟩

theorem witness_NonIncreasingTimestampFaults : (coming 10 0#6 (openState .cmdPhase)).nextSample (smp 10 0#6) []
      ∧ (openState .cmdPhase).rc.fault = false
      ∧ (openState .cmdPhase).rc.halted = false ∧ (smp 10 0#6).eos = false ∧ (openState .cmdPhase).ed.primed = true
      ∧ (smp 10 0#6).ts ≤ (openState .cmdPhase).ed.lastTs := ⟨rfl, rfl, rfl, rfl, rfl, Nat.le_refl 10⟩

theorem witness_StepWithoutSampleChangesNothing : State.reset.io.input = [] ∧ ∃ s : State, s.io.input = .noSample :: [] :=
  ⟨rfl, { State.reset with io := { State.reset.io with input := [.noSample] } }, rfl⟩

theorem witness_ConfigurationCheck : configValid Build.standard { Configuration.standard with wordSize := 7#8 } = false :=
  by decide

theorem witness_ResetDuringARun : ∃ s : State, s.fsm = .dataPhase ∧ s.io.input = .reset Configuration.standard :: [] :=
  ⟨{ inQuad [] 8 false 0#4 with io := { State.reset.io with input := [.reset Configuration.standard] } }, rfl, rfl⟩

theorem witness_PrimeAndNoneLatchTheSample :
    ∃ t : State, t = { State.reset with ed := { primed := true, csaPrev := true, sPrev := false, lastTs := 0 } }
      ∧ exec (.evPrime 0#5) State.reset = .next t :=
  ⟨_, rfl, rfl⟩

theorem witness_AssertionRunsItsSplit :
    decode idleState.build.tables (.split (0b01001#5 ++ 0#2) (.cont idleState.ses.cont)) = .ok (.beginFresh 0#2)
      ∧ decode Tables.standard (.split (0b01001#5 ++ 3#2) (.cont (idleState.setCont true).ses.cont)) = .ok (.beginCont 3#2) :=
  by decide

theorem witness_DegenerateWindowIsSkipped : (inCommand 7 0#8).txn.nclk = 0 := by decide

theorem witness_DeassertionRunsTheCommand : 0 < (inData 0x03#8 []).txn.nclk
      ∧ decode (inData 0x03#8 []).build.tables (.command (inData 0x03#8 []).txn.cmd) = .ok .read :=
  by decide

theorem witness_PartialByteIsDiscarded : exec (.evCsAssert 0#2) idleState = .next (after (.evCsAssert 0#2) idleState)
      ∧ exec (.evCsDeassert 0#2) (inCommand 7 0#8) = .next (after (.evCsDeassert 0#2) (inCommand 7 0#8)) := ⟨rfl, rfl⟩

theorem witness_SingleEdgeShiftsBothLanes : (inCommand 0 0#8).la.sbits ≠ 7#4 ∧ (inCommand 6 0#8).la.sbits ≠ 7#4 :=
  by decide

theorem fits_without_widths : ∀ s : State, s.build.widths.cntW = none → s.ByteFits :=
  fun s h => ⟨fun n e => (by rw [h] at e; cases e), fun n e => (by rw [h] at e; cases e), fun n e => (by rw [h] at e; cases e)⟩

/-- A 1-bit count holds the first byte -/
theorem fits_one_bit : (narrow none (some 1) (inCommand 7 0#8)).ByteFits := by
  refine ⟨?_, ?_, ?_⟩ <;> intro n h <;> cases h <;> decide

theorem witness_EighthEdgeCompletesAByte : (inCommand 7 0#8).la.sbits = 7#4 ∧ (inCommand 7 0#8).ByteFits :=
  ⟨rfl, fits_without_widths _ rfl⟩

theorem witness_EightEdgesAssembleAByte :
    ([(1, 0#6), (2, 4#6), (3, 0#6), (4, 4#6), (5, 0#6), (6, 4#6), (7, 8#6), (8, 12#6)] : List (Nat × Lines)).length = 8
      ∧ (openState .cmdPhase).la.sbits = 0#4 ∧ (openState .cmdPhase).ByteFits := ⟨rfl, rfl, fits_without_widths _ rfl⟩

theorem witness_QuadHighHoldsTheNibble : (inQuad [] 8 false 0#4).cfg.hasQuad = true := by decide

theorem witness_QuadLowCompletesTheByte : (inQuad [] 15 true 0xA#4).cfg.hasQuad = true ∧ (inQuad [] 15 true 0xA#4).ByteFits
      ∧ (inQuad [] 15 true 0xA#4).txn.pos ≤ 15
      ∧ 15 < (inQuad [] 16 true 0xA#4).txn.pos := ⟨rfl, fits_without_widths _ rfl, Nat.le_refl 15, by decide⟩

theorem witness_AbsentQuadLinesFault : (noQuadLines (inQuad [] 8 false 0#4)).cfg.hasQuad = false
      ∧ (inQuad [] 8 false 0#4).txn.quadEn = true
      ∧ (inQuad [] 8 false 0#4).txn.qs.toNat ≤ (inQuad [] 8 false 0#4).txn.pos := by decide

theorem witness_AssemblerFrame : Instr.quadHigh ∈ assemblerRows
      ∧ exec .quadHigh (inQuad [] 8 false 0#4) = .next (after .quadHigh (inQuad [] 8 false 0#4))
      ∧ exec .singleEdge (inCommand 7 0#8) = .next (after .singleEdge (inCommand 7 0#8))
      ∧ exec .quadLow (inQuad [] 15 true 0#4) = .next (after .quadLow (inQuad [] 15 true 0#4)) :=
  ⟨by decide, rfl, rfl, rfl⟩

theorem witness_ClockEdgeRunsItsSplit_single :
    exec .singleEdge (inCommand 6 0#8) = .next (after .singleEdge (inCommand 6 0#8))
      ∧ (after .singleEdge (inCommand 6 0#8)).rc.fault = false
      ∧ ¬((inCommand 6 0#8).txn.pos = 7) ∧ Fits (inCommand 6 0#8).build.widths.posW 7 :=
  ⟨rfl, rfl, by decide, fun _ h => nomatch h⟩

theorem witness_ClockEdgeRunsItsSplit_quad : (inQuad [] 13 true 0#4).txn.quadEn = true
      ∧ (inQuad [] 13 true 0#4).txn.qs.toNat ≤ (inQuad [] 13 true 0#4).txn.pos
      ∧ exec .quadLow (inQuad [] 13 true 0#4) = .next (after .quadLow (inQuad [] 13 true 0#4))
      ∧ (after .quadLow (inQuad [] 13 true 0#4)).rc.fault = false ∧ ¬((inQuad [] 13 true 0#4).txn.pos = 15)
      ∧ exec .quadHigh (inQuad [] 8 false 0#4) = .next (after .quadHigh (inQuad [] 8 false 0#4))
      ∧ (after .quadHigh (inQuad [] 8 false 0#4)).rc.fault = false ∧ Fits (inQuad [] 13 true 0#4).build.widths.posW 14 :=
  ⟨rfl, by decide, rfl, rfl, by decide, rfl, rfl, fun _ h => nomatch h⟩

theorem witness_CommandIsCapturedAtPosition7 : ¬((inCommand 7 0#8).txn.quadEn = true
      ∧ (inCommand 7 0#8).txn.qs.toNat ≤ (inCommand 7 0#8).txn.pos) ∧ (inCommand 7 0#8).txn.pos = 7
      ∧ (inCommand 7 0#8).txn.isCont = false ∧ (inCommand 7 0#8).la.sbits = 7#4 ∧ (inCommand 7 0#8).ByteFits
      ∧ Fits (inCommand 7 0#8).build.widths.posW 8 :=
  ⟨by decide, rfl, rfl, rfl, fits_without_widths _ rfl, fun _ h => nomatch h⟩

theorem witness_ContinuationCheckAtPosition15 : (inQuad [] 15 true 0xA#4).txn.quadEn = true
      ∧ (inQuad [] 15 true 0xA#4).txn.qs.toNat ≤ (inQuad [] 15 true 0xA#4).txn.pos
      ∧ (inQuad [] 15 true 0xA#4).cfg.hasQuad = true ∧ (inQuad [] 15 true 0xA#4).la.qhalf = true
      ∧ (inQuad [] 15 true 0xA#4).txn.pos = 15
      ∧ 0 < (inQuad [] 15 true 0xA#4).txn.dc ∧ (inQuad [] 15 true 0xA#4).ByteFits
      ∧ Fits (inQuad [] 15 true 0xA#4).build.widths.posW 16 :=
  ⟨rfl, by decide, rfl, rfl, rfl, by decide, fits_without_widths _ rfl, fun _ h => nomatch h⟩

theorem witness_CounterOverflowFaults_pos :
    ¬Fits (narrow (some 3) none (inCommand 7 0#8)).build.widths.posW ((inCommand 7 0#8).txn.pos + 1)
      ∧ (inCommand 7 0#8).cfg.hasQuad = true := ⟨fun h => absurd (h 3 rfl) (by decide), rfl⟩

theorem witness_CounterOverflowFaults_single : (narrow none (some 0) (inCommand 7 0#8)).la.sbits = 7#4
      ∧ ¬(narrow none (some 0) (inCommand 7 0#8)).ByteFits
      ∧ ¬((inCommand 7 0#8).txn.quadEn = true) := ⟨rfl, fun h => absurd (h.1 0 rfl) (by decide), by decide⟩

theorem witness_CounterOverflowFaults_quad : (narrow none (some 0) (inQuad [] 15 true 0#4)).cfg.hasQuad = true
      ∧ ¬(narrow none (some 0) (inQuad [] 15 true 0#4)).ByteFits
      ∧ (inQuad [] 15 true 0#4).la.qhalf = true ∧ (inQuad [] 15 true 0#4).onQuadPath = true :=
  ⟨rfl, fun h => absurd (h.1 0 rfl) (by decide), rfl, by decide⟩

theorem witness_UnboundedCountersNeverOverflow : (State.reset.raiseFault (.counterOverflow 8)).build.widths.posW = none
      ∧ (State.reset.raiseFault (.counterOverflow 8)).build.widths.cntW = none
      ∧ exec .evClk (State.reset.raiseFault (.counterOverflow 8)) = .next (after .evClk (State.reset.raiseFault (.counterOverflow 8)))
      ∧ (after .evClk (State.reset.raiseFault (.counterOverflow 8))).rc.faultCode = 3#4 := ⟨rfl, rfl, rfl, rfl⟩

theorem witness_DataCommandResult : ∃ (s : State) (vs : List Byte) (rest : List Entry), (Instr.read, 0) ∈ dataRows
      ∧ s.txn.mosiSeq = .byte 0x03#8 :: (vs.map Entry.byte ++ rest)
      ∧ vs.length = s.ses.aw.toNat ∧ s.cfg.minAddr.toNat ≤ vs.foldl (fun acc v => acc * 256 + v.toNat) 0
      ∧ vs.foldl (fun acc v => acc * 256 + v.toNat) 0 ≤ s.cfg.maxAddr.toNat :=
  ⟨{ inData 0x03#8 [0x00#8, 0x10#8, 0x00#8, 1#8] with cfg := { Configuration.standard with minAddr := 0x1000#32, maxAddr := 0x1000#32 } },
    [0x00#8, 0x10#8, 0x00#8], [.byte 1#8], by decide, by decide, by decide, by decide, by decide⟩

theorem witness_TruncatedDataCommand : (Instr.quadRead, 2) ∈ dataRows
      ∧ (inData 0xEB#8 [0#8, 0#8]).txn.mosiSeq.length < 1 + (inData 0xEB#8 [0#8, 0#8]).ses.aw.toNat :=
  by decide

theorem witness_FilteredDataCommand : ∃ (s s' : State) (vs : List Byte) (rest : List Entry), (Instr.read, 0) ∈ dataRows
      ∧ s.txn.mosiSeq = .byte 0x03#8 :: (vs.map Entry.byte ++ rest)
      ∧ s'.txn.mosiSeq = s.txn.mosiSeq ∧ s'.ses = s.ses ∧ vs.length = s.ses.aw.toNat
      ∧ vs.foldl (fun acc v => acc * 256 + v.toNat) 0 < s.cfg.minAddr.toNat
      ∧ s'.cfg.maxAddr.toNat < vs.foldl (fun acc v => acc * 256 + v.toNat) 0 :=
  ⟨{ inData 0x03#8 [0x00#8, 0x10#8, 0x00#8, 1#8] with cfg := { Configuration.standard with minAddr := 0x1001#32, maxAddr := 0x1FFF#32 } },
    { inData 0x03#8 [0x00#8, 0x10#8, 0x00#8, 1#8] with cfg := { Configuration.standard with minAddr := 0x0#32, maxAddr := 0xFFF#32 } },
    [0x00#8, 0x10#8, 0x00#8], [.byte 1#8], by decide, by decide, rfl, rfl, by decide, by decide, by decide⟩

theorem witness_DataWindowIsAnnotated :
    ∃ (d : DataEntry) (vs : List Byte) (rest : List Entry), 0 < (inData 0x0B#8 [0#8, 0#8, 0#8]).txn.nclk
      ∧ (inData 0x0B#8 [0#8, 0#8, 0#8]).build.tables.data.lookup (inData 0x0B#8 [0#8, 0#8, 0#8]).txn.cmd = some d
      ∧ (inData 0x0B#8 [0#8, 0#8, 0#8]).txn.mosiSeq = .byte 0x0B#8 :: (vs.map Entry.byte ++ rest)
      ∧ vs.length = (inData 0x0B#8 [0#8, 0#8, 0#8]).ses.aw.toNat
      ∧ Configuration.standard.minAddr.toNat ≤ vs.foldl (fun acc v => acc * 256 + v.toNat) 0
      ∧ vs.foldl (fun acc v => acc * 256 + v.toNat) 0 ≤ Configuration.standard.maxAddr.toNat :=
  ⟨⟨"Fast Read", 1, 1⟩, [0#8, 0#8, 0#8], [], by decide, by decide, by decide, by decide, by decide, by decide⟩

theorem witness_AddressIsBigEndian : (0 : Nat) < [0x12#8, 0x34#8].length ∧ ([0x12#8, 0x34#8][0]).toNat = 0x12 :=
  by decide

theorem witness_ToggleWritesTheWidthAfterTheRecord : (Instr.en4b, 4#3) ∈ toggleRows ∧ (Instr.ex4b, 3#3) ∈ toggleRows :=
  by decide

theorem witness_ControlAndUnrecognizedRecords :
    ∃ r : AnnKind → AnnRecord, ∀ k, r k = { cat := .controlCommand, kind := k, cmd := 0x9F#8, cont := false, startTs := 1, endTs := 0, aw := 3#3, range := none }
      ∧ (r k).startTs = (inData 0x9F#8 []).txn.startTs :=
  ⟨fun k => { cat := .controlCommand, kind := k, cmd := 0x9F#8, cont := false, startTs := 1, endTs := 0, aw := 3#3, range := none }, fun _ => ⟨rfl, rfl⟩⟩

theorem witness_CommandFrame : isCommandRow .en4b = true ∧ exec .en4b (inData 0xB7#8 []) = .next (after .en4b (inData 0xB7#8 []))
      ∧ isCommandRow (.control 6#8) = true ∧ exec (.control 6#8) (inData 6#8 []) = .next (after (.control 6#8) (inData 6#8 [])) :=
  ⟨rfl, rfl, rfl, rfl⟩

theorem witness_AnnotationReadsOnlyTheAddress :
    [Entry.byte 3#8, .byte 0#8, .byte 0#8, .byte 0#8, .byte 9#8].length = (inData 3#8 [0#8, 0#8, 0#8, 1#8]).txn.mosiSeq.length
      ∧ [Entry.byte 3#8, .byte 0#8, .byte 0#8, .byte 0#8, .byte 9#8].take (1 + (inData 3#8 [0#8, 0#8, 0#8, 1#8]).ses.aw.toNat)
          = (inData 3#8 [0#8, 0#8, 0#8, 1#8]).txn.mosiSeq.take (1 + (inData 3#8 [0#8, 0#8, 0#8, 1#8]).ses.aw.toNat)
      ∧ exec (.evCsDeassert 0#2) (inData 3#8 [0#8, 0#8, 0#8, 1#8]) = .next (after (.evCsDeassert 0#2) (inData 3#8 [0#8, 0#8, 0#8, 1#8])) :=
  ⟨by decide, by decide, rfl⟩

theorem witness_PhaseTags : (inData 0xEB#8 []).build.tables.data.lookup (inData 0xEB#8 []).txn.cmd = some ⟨"Quad Read", 4, 2⟩
      ∧ (inData 0x9F#8 []).build.tables.data.lookup (inData 0x9F#8 []).txn.cmd = none := by decide

theorem witness_EventFrame : exec (decodeVector 0b0111101#7) (inCommand 7 0#8) = .next (after .evClk (inCommand 7 0#8))
      ∧ exec (decodeVector 0b0111000#7) (inData 3#8 []) = .next (after (.evCsDeassert 0#2) (inData 3#8 [])) := ⟨rfl, rfl⟩

theorem witness_FaultIsPrecise : (coming 10 0#6 (openState .cmdPhase)).nextSample (smp 10 0#6) []
      ∧ Steps (coming 10 0#6 (openState .cmdPhase)) (stepped (coming 10 0#6 (openState .cmdPhase)))
      ∧ (openState .cmdPhase).rc.fault = false ∧ (stepped (coming 10 0#6 (openState .cmdPhase))).rc.fault = true :=
  ⟨rfl, rfl, rfl, rfl⟩

theorem witness_OneRecordPerStep : (coming 11 0x02#6 (inCommand 7 0#8)).nextSample (smp 11 0x02#6) []
      ∧ Steps (coming 11 0x02#6 (inCommand 7 0#8)) (stepped (coming 11 0x02#6 (inCommand 7 0#8)))
      ∧ (stepped (coming 11 0x02#6 (inCommand 7 0#8))).io.bev.isSome = true
      ∧ (stepped (coming 11 0x01#6 (inData 0x9F#8 []))).io.aev.isSome = true := ⟨rfl, rfl, by decide, by decide⟩

theorem witness_ContChangesOnlyInTheCheck :
    Steps (coming 11 0x02#6 (inQuad [] 15 true 0xA#4)) (stepped (coming 11 0x02#6 (inQuad [] 15 true 0xA#4)))
      ∧ (stepped (coming 11 0x02#6 (inQuad [] 15 true 0xA#4))).ses.cont ≠ (inQuad [] 15 true 0xA#4).ses.cont :=
  ⟨rfl, by decide⟩

theorem witness_WidthChangesOnlyByAToggle :
    Steps (coming 11 0x01#6 (inData 0xB7#8 [])) (stepped (coming 11 0x01#6 (inData 0xB7#8 [])))
      ∧ (stepped (coming 11 0x01#6 (inData 0xB7#8 []))).ses.aw ≠ (inData 0xB7#8 []).ses.aw := ⟨rfl, by decide⟩

theorem witness_TablesAndConfigurationAreFixed :
    Steps (coming 11 0x01#6 (inData 0xB7#8 [])) (stepped (coming 11 0x01#6 (inData 0xB7#8 []))) := rfl

theorem witness_CarriedPrefixIsKept : Steps (coming 11 0x06#6 (inCommand 7 0#8)) (stepped (coming 11 0x06#6 (inCommand 7 0#8)))
      ∧ (stepped (coming 11 0x06#6 (inCommand 7 0#8))).txn.cmdValid ≠ (inCommand 7 0#8).txn.cmdValid
      ∧ Steps (coming 11 0x00#6 { inData 3#8 [] with fsm := .idle, ed := idleState.ed }) (stepped (coming 11 0x00#6 { inData 3#8 [] with fsm := .idle, ed := idleState.ed }))
      ∧ (stepped (coming 11 0x00#6 { inData 3#8 [] with fsm := .idle, ed := idleState.ed })).txn.cmdValid = false :=
  ⟨rfl, by decide, rfl, by decide⟩

/-- The last bit of a command byte is still to come. -/
theorem consistent_inCommand : Consistent (inCommand 7 0#8) where
  accepted := by decide
  width := by decide
  lengths := rfl
  quad := fun h => nomatch h
  cont := fun h => nomatch h
  selected := fun _ => ⟨rfl, rfl⟩
  closed := fun h => nomatch h
  command := fun _ => ⟨rfl, rfl, rfl, rfl, by decide, rfl, rfl, rfl, rfl⟩
  data := fun h => nomatch h

/-- A Quad Read whose third address byte is half assembled. -/
theorem consistent_inQuad : Consistent (inQuad [0x00#8, 0x10#8] 13 true 0#4) where
  accepted := by decide
  width := by decide
  lengths := rfl
  quad := fun _ => ⟨rfl, rfl⟩
  cont := fun h => nomatch h
  selected := fun _ => ⟨rfl, rfl⟩
  closed := fun h => nomatch h
  command := fun h => nomatch h
  data := fun _ => ⟨rfl, rfl, rfl, fun _ => ⟨by decide, rfl, by decide, rfl, by decide⟩, fun h => nomatch h⟩

/-- A Fast Read with a command byte and one more. -/
theorem consistent_inData : Consistent (inData 0x0B#8 [0x12#8]) where
  accepted := by decide
  width := by decide
  lengths := rfl
  quad := fun h => nomatch h
  cont := fun h => nomatch h
  selected := fun _ => ⟨rfl, rfl⟩
  closed := fun h => nomatch h
  command := fun h => nomatch h
  data := fun _ => ⟨rfl, rfl, rfl, fun h => (nomatch h), fun _ => ⟨rfl, by decide, by decide, rfl, by decide⟩⟩

/-- Between windows. -/
theorem consistent_idleState : Consistent idleState where
  accepted := by decide
  width := by decide
  lengths := rfl
  quad := fun h => nomatch h
  cont := fun h => nomatch h
  selected := fun h => nomatch h
  closed := fun _ => ⟨rfl, rfl, by decide⟩
  command := fun h => nomatch h
  data := fun h => nomatch h

/-- Between two windows of a continuous read. -/
def pendingState : State :=
  { inQuad [0x00#8, 0x10#8, 0x00#8, 0xA0#8] 16 false 0#4 with
    fsm := .contPending, ses := { aw := 3#3, cont := true }, ed := idleState.ed }

theorem consistent_pendingState : Consistent pendingState where
  accepted := by decide
  width := by decide
  lengths := rfl
  quad := fun _ => ⟨rfl, rfl⟩
  cont := fun _ => ⟨rfl, by decide⟩
  selected := fun h => nomatch h
  closed := fun _ => ⟨rfl, rfl, by decide⟩
  command := fun h => nomatch h
  data := fun h => nomatch h

theorem witness_InvariantGivesTheItemsOfTheSpec : Consistent idleState ∧ Consistent (inCommand 7 0#8)
      ∧ Consistent (inData 0x0B#8 [0x12#8]) ∧ Consistent (inQuad [0x00#8, 0x10#8] 13 true 0#4)
      ∧ Consistent pendingState :=
  ⟨consistent_idleState, consistent_inCommand, consistent_inData, consistent_inQuad, consistent_pendingState⟩

/-- The invariant does not depend on the ports -/
theorem consistent_coming : ∀ (ts : Nat) (l : Lines) (s : State), Consistent s → Consistent (coming ts l s) := fun _ _ _ h =>
  ⟨h.accepted, h.width, h.lengths, h.quad, h.cont, h.selected, fun c => let k := h.closed c; ⟨k.1, k.2, k.3⟩,
    fun c => let k := h.command c; ⟨k.1, k.2, k.3, k.4, k.5, k.6, k.7, k.8, k.9⟩,
    fun c => let k := h.data c
      ⟨k.1, k.2, k.3, fun q => let m := k.4 q; ⟨m.1, m.2, m.3, m.4, m.5⟩, fun q => let m := k.5 q; ⟨m.1, m.2, m.3, m.4, m.5⟩⟩⟩

theorem witness_FsmTransitionTable_clk : Consistent (coming 11 0x02#6 (inCommand 7 0#8))
      ∧ (coming 11 0x02#6 (inCommand 7 0#8)).nextSample (smp 11 0x02#6) []
      ∧ (coming 11 0x02#6 (inCommand 7 0#8)).processes (smp 11 0x02#6)
      ∧ Steps (coming 11 0x02#6 (inCommand 7 0#8)) (stepped (coming 11 0x02#6 (inCommand 7 0#8)))
      ∧ (stepped (coming 11 0x02#6 (inCommand 7 0#8))).rc.fault = false
      ∧ decodeVector ((inCommand 7 0#8).present (smp 11 0x02#6) []).eventVector = .evClk :=
  ⟨consistent_coming _ _ _ consistent_inCommand, rfl, ⟨rfl, rfl, .inr (.inr (by decide))⟩, rfl, by decide, by decide⟩

theorem witness_FsmTransitionTable_assert : Consistent (coming 11 0x00#6 pendingState)
      ∧ (coming 11 0x00#6 pendingState).processes (smp 11 0x00#6)
      ∧ decodeVector (pendingState.present (smp 11 0x00#6) []).eventVector = .evCsAssert 0#2
      ∧ (stepped (coming 11 0x00#6 pendingState)).rc.fault = false :=
  ⟨consistent_coming _ _ _ consistent_pendingState, ⟨rfl, rfl, .inr (.inr (by decide))⟩, by decide, by decide⟩

theorem witness_FsmTransitionTable_deassert : Consistent (coming 11 0x01#6 (inData 0x0B#8 [0x12#8]))
      ∧ (coming 11 0x01#6 (inData 0x0B#8 [0x12#8])).processes (smp 11 0x01#6)
      ∧ decodeVector ((inData 0x0B#8 [0x12#8]).present (smp 11 0x01#6) []).eventVector = .evCsDeassert 0#2
      ∧ (stepped (coming 11 0x01#6 (inData 0x0B#8 [0x12#8]))).rc.fault = false :=
  ⟨consistent_coming _ _ _ consistent_inData, ⟨rfl, rfl, .inr (.inr (by decide))⟩, by decide, by decide⟩

theorem witness_FsmTransitionTable_none : Consistent (coming 11 0x01#6 idleState)
      ∧ (coming 11 0x01#6 idleState).processes (smp 11 0x01#6)
      ∧ decodeVector (idleState.present (smp 11 0x01#6) []).eventVector = .evNone 0b0100000#7 :=
  ⟨consistent_coming _ _ _ consistent_idleState, ⟨rfl, rfl, .inr (.inr (by decide))⟩, by decide⟩

theorem witness_StepKeepsTheInvariant : Inv (coming 11 0x02#6 (inCommand 7 0#8))
      ∧ Steps (coming 11 0x02#6 (inCommand 7 0#8)) (stepped (coming 11 0x02#6 (inCommand 7 0#8))) :=
  ⟨fun _ => consistent_coming _ _ _ consistent_inCommand, rfl⟩

theorem witness_NoFreeValueIsDrawn : Inv (coming 11 0x01#6 (inData 0x0B#8 [0x12#8]))
      ∧ (coming 11 0x01#6 (inData 0x0B#8 [0x12#8])).nextSample (smp 11 0x01#6) []
      ∧ Steps (coming 11 0x01#6 (inData 0x0B#8 [0x12#8])) (stepped (coming 11 0x01#6 (inData 0x0B#8 [0x12#8]))) :=
  ⟨fun _ => consistent_coming _ _ _ consistent_inData, rfl, rfl⟩

/-- The command byte and end_ts differ, and no rule reads either. -/
def otherInCommand : State := { inCommand 7 0#8 with txn := { (inCommand 7 0#8).txn with cmd := 0x55#8, qs := 3#4, endTs := 99 } }

theorem consistent_otherInCommand : Consistent otherInCommand where
  accepted := by decide
  width := by decide
  lengths := rfl
  quad := fun h => nomatch h
  cont := fun h => nomatch h
  selected := fun _ => ⟨rfl, rfl⟩
  closed := fun h => nomatch h
  command := fun _ => ⟨rfl, rfl, rfl, rfl, by decide, rfl, rfl, rfl, rfl⟩
  data := fun h => nomatch h

theorem witness_UnspecifiedRegistersAreNeverRead : Inv (coming 11 0x02#6 (inCommand 7 0#8))
      ∧ Inv (coming 11 0x02#6 otherInCommand)
      ∧ (coming 11 0x02#6 (inCommand 7 0#8)).readable = (coming 11 0x02#6 otherInCommand).readable
      ∧ inCommand 7 0#8 ≠ otherInCommand
      ∧ Steps (coming 11 0x02#6 (inCommand 7 0#8)) (stepped (coming 11 0x02#6 (inCommand 7 0#8)))
      ∧ Steps (coming 11 0x02#6 otherInCommand) (stepped (coming 11 0x02#6 otherInCommand)) :=
  ⟨fun _ => consistent_coming _ _ _ consistent_inCommand, fun _ => consistent_coming _ _ _ consistent_otherInCommand, rfl, by decide, rfl, rfl⟩

/-- One byte record and one annotation record have left; a byte is being assembled. -/
def runningState : State :=
  { inCommand 7 0#8 with
    txn := { (inCommand 7 0#8).txn with startTs := 8 }
    io := { State.reset.io with trace :=
      [.byte { startTs := 1, endTs := 3, idx := 0, path := .single, mosi := .byte 0#8, miso := .byte 0#8, phase := .cmd },
       .ann { cat := .controlCommand, kind := .unrecognized, cmd := 0#8, cont := false, startTs := 0, endTs := 5, aw := 3#3, range := none }] } }

theorem ordered_runningState : OutputOrdered (coming 11 0x02#6 runningState) where
  ends := by decide
  starts := by decide
  bytes := by decide
  past := by decide
  spans := by decide
  opened := by decide
  assembling := by decide

theorem witness_StepKeepsTheOutputOrder : OutputOrdered (coming 11 0x02#6 runningState)
      ∧ Steps (coming 11 0x02#6 runningState) (stepped (coming 11 0x02#6 runningState)) :=
  ⟨ordered_runningState, rfl⟩

theorem witness_UndisturbedRunsNeverFault : Undisturbed (coming 11 0x02#6 (inQuad [] 8 false 0#4))
      ∧ Steps (coming 11 0x02#6 (inQuad [] 8 false 0#4)) (stepped (coming 11 0x02#6 (inQuad [] 8 false 0#4))) :=
  ⟨⟨by decide, rfl, rfl, rfl, rfl⟩, rfl⟩

end Sys2Proof.Tests
end

section
/-! SUPPORT. What the operations of a transaction leave in each register group, said once: the effects of a clock edge, the
opening of a window, and its end. -/

namespace Sys2Proof.Machine

/-! ### The effects of a clock edge -/

@[simp] theorem byteState_txn (em es : Entry) (p : AsmPath) (s : State) : (byteState em es p s).txn =
    { s.txn with mosiSeq := s.txn.mosiSeq ++ [em], misoSeq := s.txn.misoSeq ++ [es], nclk := s.txn.nclk + 1 } := rfl
@[simp] theorem byteState_ses (em es : Entry) (p : AsmPath) (s : State) : (byteState em es p s).ses = s.ses := rfl
@[simp] theorem byteState_la (em es : Entry) (p : AsmPath) (s : State) : (byteState em es p s).la = s.la := rfl
@[simp] theorem byteState_fsm (em es : Entry) (p : AsmPath) (s : State) : (byteState em es p s).fsm = s.fsm := rfl

@[simp] theorem quadHeld_txn (s : State) : (quadHeld s).txn = s.txn := rfl
@[simp] theorem quadHeld_ses (s : State) : (quadHeld s).ses = s.ses := rfl
@[simp] theorem quadHeld_la_sbits (s : State) : (quadHeld s).la.sbits = s.la.sbits := rfl
@[simp] theorem quadHeld_la_qhalf (s : State) : (quadHeld s).la.qhalf = true := rfl
@[simp] theorem quadHeld_fsm (s : State) : (quadHeld s).fsm = s.fsm := rfl

@[simp] theorem quadCompleted_txn (s : State) : (quadCompleted s).txn =
    (byteState (quadEntries s.txn.pos (quadLowByte s)).1 (quadEntries s.txn.pos (quadLowByte s)).2 .quad s).txn := rfl
@[simp] theorem quadCompleted_ses (s : State) : (quadCompleted s).ses = s.ses := rfl
@[simp] theorem quadCompleted_la_sbits (s : State) : (quadCompleted s).la.sbits = s.la.sbits := rfl
@[simp] theorem quadCompleted_la_qhalf (s : State) : (quadCompleted s).la.qhalf = false := rfl
@[simp] theorem quadCompleted_fsm (s : State) : (quadCompleted s).fsm = s.fsm := rfl

@[simp] theorem contCheck_txn (b : Byte) (s : State) : (contCheck b s).txn = s.txn := rfl
@[simp] theorem contCheck_ses_aw (b : Byte) (s : State) : (contCheck b s).ses.aw = s.ses.aw := rfl
@[simp] theorem contCheck_ses_cont (b : Byte) (s : State) : (contCheck b s).ses.cont = hasSignature b := rfl
@[simp] theorem contCheck_la (b : Byte) (s : State) : (contCheck b s).la = s.la := rfl
@[simp] theorem contCheck_fsm (b : Byte) (s : State) : (contCheck b s).fsm = s.fsm := rfl

@[simp] theorem singleShifted_txn (s : State) : (singleShifted s).txn = s.txn := by simp [singleShifted]
@[simp] theorem singleShifted_ses (s : State) : (singleShifted s).ses = s.ses := by simp [singleShifted]
@[simp] theorem singleShifted_la_sbits (s : State) : (singleShifted s).la.sbits = s.la.sbits + 1#4 := rfl
@[simp] theorem singleShifted_la_qhalf (s : State) : (singleShifted s).la.qhalf = s.la.qhalf := by simp [singleShifted]
@[simp] theorem singleShifted_fsm (s : State) : (singleShifted s).fsm = s.fsm := by simp [singleShifted]

@[simp] theorem singleCompleted_txn (s : State) : (singleCompleted s).txn =
    (byteState (.byte (mosiShift s)) (.byte (misoShift s)) .single s).txn := rfl
@[simp] theorem singleCompleted_ses (s : State) : (singleCompleted s).ses = s.ses := rfl
@[simp] theorem singleCompleted_la_sbits (s : State) : (singleCompleted s).la.sbits = 0#4 := rfl
@[simp] theorem singleCompleted_la_qhalf (s : State) : (singleCompleted s).la.qhalf = s.la.qhalf := rfl
@[simp] theorem singleCompleted_fsm (s : State) : (singleCompleted s).fsm = s.fsm := rfl

/-- R106, R107: the capture writes the command registers and fsm, and nothing else. -/
theorem captureCommand_writes (m : Byte) (s : State) : ∃ (quadEn : Bool) (qs : BitVec 4) (dc : Nat),
    captureCommand m s = { s with
      txn := { s.txn with cmd := m, cmdValid := true, quadEn := quadEn, qs := qs, dc := dc }
      fsm := .dataPhase } := by
  cases h : s.build.tables.quad.lookup m with
  | none => exact ⟨_, _, _, captureCommand_none h⟩
  | some dc => exact ⟨_, _, _, captureCommand_some h⟩

@[simp] theorem captureCommand_cfg (m : Byte) (s : State) : (captureCommand m s).cfg = s.cfg := by
  obtain ⟨_, _, _, h⟩ := captureCommand_writes m s; rw [h]
@[simp] theorem captureCommand_ses (m : Byte) (s : State) : (captureCommand m s).ses = s.ses := by
  obtain ⟨_, _, _, h⟩ := captureCommand_writes m s; rw [h]
@[simp] theorem captureCommand_la (m : Byte) (s : State) : (captureCommand m s).la = s.la := by
  obtain ⟨_, _, _, h⟩ := captureCommand_writes m s; rw [h]
@[simp] theorem captureCommand_io (m : Byte) (s : State) : (captureCommand m s).io = s.io := by
  obtain ⟨_, _, _, h⟩ := captureCommand_writes m s; rw [h]
@[simp] theorem captureCommand_fsm (m : Byte) (s : State) : (captureCommand m s).fsm = .dataPhase := by
  obtain ⟨_, _, _, h⟩ := captureCommand_writes m s; rw [h]
@[simp] theorem captureCommand_mosiSeq (m : Byte) (s : State) : (captureCommand m s).txn.mosiSeq = s.txn.mosiSeq := by
  obtain ⟨_, _, _, h⟩ := captureCommand_writes m s; rw [h]
@[simp] theorem captureCommand_misoSeq (m : Byte) (s : State) : (captureCommand m s).txn.misoSeq = s.txn.misoSeq := by
  obtain ⟨_, _, _, h⟩ := captureCommand_writes m s; rw [h]
@[simp] theorem captureCommand_nclk (m : Byte) (s : State) : (captureCommand m s).txn.nclk = s.txn.nclk := by
  obtain ⟨_, _, _, h⟩ := captureCommand_writes m s; rw [h]
@[simp] theorem captureCommand_isCont (m : Byte) (s : State) : (captureCommand m s).txn.isCont = s.txn.isCont := by
  obtain ⟨_, _, _, h⟩ := captureCommand_writes m s; rw [h]
@[simp] theorem captureCommand_cmd (m : Byte) (s : State) : (captureCommand m s).txn.cmd = m := by
  obtain ⟨_, _, _, h⟩ := captureCommand_writes m s; rw [h]
@[simp] theorem captureCommand_cmdValid (m : Byte) (s : State) : (captureCommand m s).txn.cmdValid = true := by
  obtain ⟨_, _, _, h⟩ := captureCommand_writes m s; rw [h]

/-- R107: a capture that finds a quad-capable command sets the start point of every quad command. -/
theorem captureCommand_qs {m : Byte} {s : State} (fresh : s.txn.quadEn = false) (h : (captureCommand m s).txn.quadEn = true) :
    (captureCommand m s).txn.qs = Config.quadStart := by
  cases hl : s.build.tables.quad.lookup m with
  | none => rw [captureCommand_none hl] at h; simp [fresh] at h
  | some dc => rw [captureCommand_some hl]

theorem edgeEffect_cfg {s u : State} (h : EdgeEffect s u) : u.cfg = s.cfg := by
  cases h <;> simp [quadHeld, quadCompleted, contCheck, singleShifted, singleCompleted, byteState]

theorem edgeEffect_smp {s u : State} (h : EdgeEffect s u) : u.io.smp = s.io.smp := by
  cases h <;> simp [quadHeld, quadCompleted, contCheck, singleShifted, singleCompleted, byteState]

theorem edgeEffect_aw {s u : State} (h : EdgeEffect s u) : u.ses.aw = s.ses.aw := by
  cases h <;> simp

/-- R115: of the effects of a clock edge only the continuation check writes cont. -/
theorem edgeEffect_cont {s u : State} (h : EdgeEffect s u) : u.ses.cont = s.ses.cont
    ∨ (s.onQuadPath = true ∧ s.la.qhalf = true ∧ s.txn.pos = 15 ∧ 0 < s.txn.dc
      ∧ u.ses.cont = hasSignature (quadLowByte s)) := by
  cases h with
  | high => exact .inl rfl
  | low => exact .inl rfl
  | check path half lines room dummy at15 => exact .inr ⟨path, half, at15, dummy, rfl⟩
  | shift => exact .inl (by simp)
  | byte => exact .inl rfl
  | capture => exact .inl (by simp)
  | free => exact .inl (by simp)

/-- R95: a byte lands in both buffers, so their lengths stay equal. -/
theorem edgeEffect_lengths {s u : State} (h : EdgeEffect s u) (eq : s.txn.mosiSeq.length = s.txn.misoSeq.length) :
    u.txn.mosiSeq.length = u.txn.misoSeq.length := by
  cases h <;> simp [eq]

/-- R104: a clock edge leaves fsm and the carried command registers alone, unless it captures
a fresh transaction's command. -/
theorem edgeEffect_carried {s u : State} (h : EdgeEffect s u) :
    (u.fsm = s.fsm ∧ u.txn.cmd = s.txn.cmd ∧ u.txn.cmdValid = s.txn.cmdValid ∧ u.txn.quadEn = s.txn.quadEn
        ∧ u.txn.qs = s.txn.qs ∧ u.txn.dc = s.txn.dc)
      ∨ (s.txn.pos = 7 ∧ s.txn.isCont = false) := by
  cases h with
  | high => exact .inl ⟨rfl, rfl, rfl, rfl, rfl, rfl⟩
  | low => exact .inl ⟨rfl, rfl, rfl, rfl, rfl, rfl⟩
  | check => exact .inl ⟨rfl, rfl, rfl, rfl, rfl, rfl⟩
  | shift => exact .inl (by simp)
  | byte => exact .inl ⟨rfl, rfl, rfl, rfl, rfl, rfl⟩
  | capture path bits room at7 fresh => exact .inr ⟨at7, fresh⟩
  | free path bits at7 fresh => exact .inr ⟨at7, fresh⟩

/-- R110: the signature test of the byte of QUAD_LOW looks at the held nibble alone. -/
theorem hasSignature_quadLowByte (s : State) : hasSignature (quadLowByte s) = decide (s.la.qhi = 0xA#4) := by
  have high : ∀ hi lo : Nibble, hasSignature (quadByte hi lo) = decide (hi = 0xA#4) := by decide
  exact high _ _

/-! ### Opening a window -/

@[simp] theorem beginTxn_cfg (s : State) : (beginTxn s).cfg = s.cfg := by unfold beginTxn; split <;> rfl
@[simp] theorem beginTxn_build (s : State) : (beginTxn s).build = s.build := by unfold beginTxn; split <;> rfl
@[simp] theorem beginTxn_ses (s : State) : (beginTxn s).ses = s.ses := by unfold beginTxn; split <;> rfl

/-! ### The end of a window -/

/-- A command row writes the annotation port, aw and the count of free values at most. -/
theorem commandEffect_frame {s t : State} (h : CommandEffect s t) : t.cfg = s.cfg ∧ t.build = s.build
    ∧ t.ses.cont = s.ses.cont ∧ t.txn = s.txn ∧ t.la = s.la ∧ t.ed = s.ed ∧ t.io.smp = s.io.smp := by
  cases h <;> exact ⟨rfl, rfl, rfl, rfl, rfl, rfl, rfl⟩

/-- What is between the closing writes and the choice of fsm leaves the registers of `commandEffect_frame` alone. -/
theorem endTxn_eq_settleFsm (s : State) : ∃ u, endTxn s = settleFsm u ∧ u.cfg = s.cfg ∧ u.build = s.build
    ∧ u.ses.cont = s.ses.cont ∧ u.txn = (closeWindow s).txn ∧ u.la = s.clearPartial.la ∧ u.ed = s.ed
    ∧ u.io.smp = s.io.smp := by
  obtain ⟨-, h⟩ | ⟨-, h⟩ := endTxn_effect s
  · exact ⟨_, h, rfl, rfl, rfl, rfl, rfl, rfl, rfl⟩
  · exact ⟨_, h, commandEffect_frame (interpret_effect (closeWindow s))⟩

@[simp] theorem endTxn_cfg (s : State) : (endTxn s).cfg = s.cfg := by
  obtain ⟨u, h, hcfg, -⟩ := endTxn_eq_settleFsm s; rw [h]; exact hcfg
@[simp] theorem endTxn_build (s : State) : (endTxn s).build = s.build := by
  obtain ⟨u, h, -, hbuild, -⟩ := endTxn_eq_settleFsm s; rw [h]; exact hbuild
@[simp] theorem endTxn_ses_cont (s : State) : (endTxn s).ses.cont = s.ses.cont := by
  obtain ⟨u, h, -, -, hcont, -⟩ := endTxn_eq_settleFsm s; rw [h]; exact hcont
@[simp] theorem endTxn_txn (s : State) : (endTxn s).txn = { s.txn with endTs := s.io.smp.ts } := by
  obtain ⟨u, h, -, -, -, htxn, -⟩ := endTxn_eq_settleFsm s; rw [h]; exact htxn
@[simp] theorem endTxn_la (s : State) : (endTxn s).la = s.clearPartial.la := by
  obtain ⟨u, h, -, -, -, -, hla, -⟩ := endTxn_eq_settleFsm s; rw [h]; exact hla
@[simp] theorem endTxn_fsm (s : State) : (endTxn s).fsm = if s.ses.cont then .contPending else .idle := by
  obtain ⟨u, h, -, -, hcont, -⟩ := endTxn_eq_settleFsm s; rw [h, ← hcont]; rfl

theorem kindOf_toggle {t : Tables} {c : Byte} {g : ToggleEntry} (h : t.kindOf c = .toggle g) : t.toggle.lookup c = some g := by
  unfold Tables.kindOf at h
  split at h
  · cases h
  · split at h
    · next hg => rw [hg]; simpa using h
    · split at h <;> cases h

/-- R131: aw at the end of a window is the old one, or the window carried a toggle command with a byte. -/
theorem endTxn_aw (s : State) : (endTxn s).ses.aw = s.ses.aw
    ∨ (0 < s.txn.nclk ∧ ∃ g, s.build.tables.toggle.lookup s.txn.cmd = some g
      ∧ endTxn s = settleFsm (toggleCmd (newWidth g) (closeWindow s))) := by
  obtain ⟨-, h⟩ | ⟨hn, h⟩ := endTxn_effect s
  · rw [h]; exact .inl rfl
  · obtain hs | ⟨g, hg, ht⟩ := interpret_aw (closeWindow s)
    · rw [h]; exact .inl (congrArg Session.aw hs)
    · exact .inr ⟨hn, g, kindOf_toggle hg, by rw [h, ht]⟩

/-! ### Session registers over an event -/

/-- R24, R115: cont changes only by the continuation check of a clock edge. -/
theorem eventEffect_cont {s t : State} {i : Instr} (h : EventEffect s i t) : t.ses.cont = s.ses.cont
    ∨ (i = .evClk ∧ s.onQuadPath = true ∧ s.la.qhalf = true ∧ s.txn.pos = 15 ∧ 0 < s.txn.dc
      ∧ t.ses.cont = hasSignature (quadLowByte s)) := by
  cases h with
  | eos => exact .inl rfl
  | prime => exact .inl rfl
  | assert => exact .inl (by simp)
  | deassert => exact .inl (by simp)
  | clk u _ _ _ _ _ _ _ edge => exact (edgeEffect_cont edge).imp id fun h => ⟨rfl, h⟩
  | clkFault => exact .inl rfl
  | none => exact .inl rfl

/-- R21, R131: aw changes only at a deassertion, by the toggle command of a window with a byte. -/
theorem eventEffect_aw {s t : State} {i : Instr} (h : EventEffect s i t) : t.ses.aw = s.ses.aw
    ∨ ((∃ x, i = .evCsDeassert x) ∧ 0 < s.txn.nclk ∧ ∃ g, s.build.tables.toggle.lookup s.txn.cmd = some g
      ∧ t = latchEdge (settleFsm (toggleCmd (newWidth g) (closeWindow s)))) := by
  cases h with
  | eos => exact .inl rfl
  | prime => exact .inl rfl
  | assert => exact .inl (by simp)
  | deassert x =>
    refine (endTxn_aw s).imp id ?_
    rintro ⟨hn, g, hg, ht⟩
    exact ⟨⟨x, rfl⟩, hn, g, hg, by rw [ht]⟩
  | clk u _ _ _ _ _ _ _ edge => exact .inl (by simpa using edgeEffect_aw edge)
  | clkFault => exact .inl rfl
  | none => exact .inl rfl

end Sys2Proof.Machine
end

section
/-! SUPPORT. The invariant of R40 in its strengthened form, `Consistent`: what each of its shapes depends on, how the lane
assembler moves within them, and that every event class keeps it. -/

namespace Sys2Proof.Machine

/-! ### The check of R155 -/

theorem legalWidth_awInit {b : Build} {c : Configuration} (h : configValid b c = true) : legalWidth c.awInit.toNat = true := by
  simp only [configValid, Bool.and_eq_true] at h
  obtain ⟨⟨⟨⟨⟨-, hw⟩, -⟩, -⟩, -⟩, -⟩ := h
  exact hw

/-- Every width that a toggle command of an accepted build writes is legal. -/
theorem legalWidth_newWidth {b : Build} {c : Configuration} {k : Byte} {g : ToggleEntry} (h : configValid b c = true)
    (hg : b.tables.toggle.lookup k = some g) : legalWidth (newWidth g).toNat = true := by
  have hall : toggleWidthsValid b.tables = true := by
    simp only [configValid, Bool.and_eq_true] at h
    exact h.2
  obtain ⟨l₁, l₂, hl, -⟩ := List.lookup_eq_some_iff.mp hg
  have hw : legalWidth g.newAw = true := List.all_eq_true.mp hall (k, g) (by simp [hl])
  rwa [newWidth_of_legal hw]

/-! ### What the shapes depend on -/

theorem CommandShape.congr {s t : State} (h : CommandShape s) (ht : t.txn = s.txn) (hl : t.la = s.la) : CommandShape t := by
  obtain ⟨h1, h2, h3, h4, h5, h6, h7, h8, h9⟩ := h
  constructor <;> simpa only [ht, hl]

theorem SingleShape.congr {s t : State} (h : SingleShape s) (ht : t.txn = s.txn) (hl : t.la = s.la) : SingleShape t := by
  obtain ⟨h1, h2, h3, h4, h5⟩ := h
  constructor <;> simpa only [ht, hl]

theorem QuadShape.congr {s t : State} (h : QuadShape s) (ht : t.txn = s.txn) (hl : t.la = s.la) : QuadShape t := by
  obtain ⟨h1, h2, h3, h4, h5⟩ := h
  constructor <;> simpa only [ht, hl]

theorem DataShape.congr {s t : State} (h : DataShape s) (ht : t.txn = s.txn) (hl : t.la = s.la) : DataShape t where
  captured := ht ▸ h.captured
  command := ht ▸ h.command
  counted := ht ▸ h.counted
  quad := fun hq => (h.quad (ht ▸ hq)).congr ht hl
  single := fun hq => (h.single (ht ▸ hq)).congr ht hl

/-- The invariant depends on neither the ports nor the run control, and on the edge registers only while a window is open. -/
theorem Consistent.congr {s t : State} (h : Consistent s) (hcfg : t.cfg = s.cfg) (hbuild : t.build = s.build)
    (hses : t.ses = s.ses) (htxn : t.txn = s.txn) (hla : t.la = s.la) (hfsm : t.fsm = s.fsm)
    (selected : t.fsm.isOpen = true → t.ed.primed = true ∧ t.ed.csaPrev = true) : Consistent t where
  accepted := hbuild ▸ hcfg ▸ h.accepted
  width := hses ▸ h.width
  lengths := htxn ▸ h.lengths
  quad := htxn ▸ h.quad
  cont := hses ▸ htxn ▸ h.cont
  selected := selected
  closed := fun hc => by
    obtain ⟨h1, h2, h3⟩ := h.closed (hfsm ▸ hc)
    exact ⟨hla ▸ h1, hla ▸ h2, hfsm ▸ hses ▸ h3⟩
  command := fun hc => (h.command (hfsm ▸ hc)).congr htxn hla
  data := fun hd => (h.data (hfsm ▸ hd)).congr htxn hla

/-- One more step's ports. -/
theorem Consistent.present {s : State} (h : Consistent s) (smp : Sample) (rest : List PortInput) :
    Consistent (s.present smp rest) := h.congr rfl rfl rfl rfl rfl rfl h.selected

theorem Consistent.openStep {s : State} (h : Consistent s) (rest : List PortInput) : Consistent (s.openStep rest) :=
  h.congr rfl rfl rfl rfl rfl rfl h.selected

/-! ### A sampling edge within a window -/

theorem onQuadPath_iff {s : State} : s.onQuadPath = true ↔ s.txn.quadEn = true ∧ s.txn.qs.toNat ≤ s.txn.pos := by
  simp [State.onQuadPath]

/-- R91: the first half of a quad byte. -/
theorem QuadShape.held {s : State} (h : QuadShape s) (half : s.la.qhalf = false) :
    QuadShape ((quadHeld s).setPos (s.txn.pos + 1)) := by
  have even : s.txn.pos % 2 = 0 := by
    have := h.half.not.mp (by simp [half])
    omega
  obtain ⟨started, noBits, -, entries, bytes⟩ := h
  refine ⟨by simp; omega, noBits, by simp; omega, ?_, bytes⟩
  simp only [setPos_txn_mosiSeq, setPos_txn_pos, quadHeld_txn]
  omega

/-- R94: up to position 15 the quad byte goes to the MOSI buffer, and by then the four entries are there. -/
theorem QuadShape.completed_bytes {s : State} (h : QuadShape s) (half : s.la.qhalf = true) :
    ∀ e ∈ ((quadCompleted s).txn.mosiSeq.drop 1).take 4, e.isByte = true := by
  have odd := h.half.mp half
  have len := h.entries
  intro e he
  simp only [quadCompleted_txn, byteState_txn] at he
  rw [List.drop_append_of_le_length (by omega), List.take_append, List.mem_append] at he
  rcases he with old | new
  · exact h.bytes e old
  · by_cases early : s.txn.pos ≤ 15
    · obtain rfl := List.mem_singleton.mp (List.mem_of_mem_take new)
      simp [quadEntries, Config.thresh, early, Entry.isByte]
    · rw [List.length_drop, show 4 - (s.txn.mosiSeq.length - 1) = 0 by omega] at new
      cases new

/-- R92: the second half completes an entry. -/
theorem QuadShape.completed {s : State} (h : QuadShape s) (half : s.la.qhalf = true) :
    QuadShape ((quadCompleted s).setPos (s.txn.pos + 1)) := by
  have bytes := h.completed_bytes half
  have odd := h.half.mp half
  obtain ⟨started, noBits, -, entries, -⟩ := h
  refine ⟨by simp; omega, noBits, by simp; omega, ?_, bytes⟩
  simp only [setPos_txn_mosiSeq, setPos_txn_pos, quadCompleted_txn, byteState_txn, List.length_append, List.length_singleton]
  omega

/-- The bit count of R88 does not wrap within a byte. -/
theorem sbits_succ {n : BitVec 4} (le : n.toNat ≤ 7) : (n + 1#4).toNat = n.toNat + 1 := by
  rw [BitVec.toNat_add]; simp; omega

/-- R88: an edge that completes no byte. -/
theorem SingleShape.shifted {s : State} (h : SingleShape s) (bits : s.la.sbits ≠ 7#4) :
    SingleShape ((singleShifted s).setPos (s.txn.pos + 1)) := by
  obtain ⟨fresh, count, inByte, noHalf, bytes⟩ := h
  have succ := sbits_succ inByte
  have ne : s.la.sbits.toNat ≠ 7 := fun h7 => bits (BitVec.eq_of_toNat_eq h7)
  exact ⟨by simpa using fresh, by simp [succ]; omega, by simp [succ]; omega, by simpa using noHalf, by simpa using bytes⟩

/-- R89: the eighth edge appends a byte. -/
theorem SingleShape.completed {s : State} (h : SingleShape s) (bits : s.la.sbits = 7#4) :
    SingleShape ((singleCompleted s).setPos (s.txn.pos + 1)) := by
  obtain ⟨fresh, count, -, noHalf, bytes⟩ := h
  have seven : s.la.sbits.toNat = 7 := by rw [bits]; rfl
  refine ⟨fresh, ?_, by simp, noHalf, ?_⟩
  · simp; omega
  · intro e he
    simp only [setPos_txn_mosiSeq, singleCompleted_txn, byteState_txn, List.mem_append, List.mem_singleton] at he
    obtain old | rfl := he
    · exact bytes e old
    · rfl

/-- Entry 0 is there, so its byte is behind: no further edge of the window is at the capture position. -/
theorem DataShape.past_capture {s : State} (h : DataShape s) : 8 ≤ s.txn.pos := by
  cases hq : s.txn.quadEn with
  | true => exact (h.quad hq).started
  | false =>
    have one := (List.getElem?_eq_some_iff.mp h.command).1
    have := (h.single hq).bits
    omega

/-- Appending an entry keeps the command at entry 0 and the count of R95. -/
theorem DataShape.append {s t : State} (h : DataShape s) (em es : Entry) (p : AsmPath)
    (ht : t.txn = ((byteState em es p s).setPos (s.txn.pos + 1)).txn) (quad : s.txn.quadEn = true → QuadShape t)
    (single : s.txn.quadEn = false → SingleShape t) : DataShape t := by
  have one := (List.getElem?_eq_some_iff.mp h.command).1
  refine ⟨by simpa [ht] using h.captured, ?_, ?_, by simpa [ht] using quad, by simpa [ht] using single⟩
  · simp only [ht, setPos_txn_mosiSeq, setPos_txn_cmd, byteState_txn]
    rw [List.getElem?_append_left one, h.command]
  · have := h.counted
    simp [ht]; omega

/-- DATA_PHASE over a clock edge: the path is the one of the command's shape, and no edge is the capture. -/
theorem DataShape.clocked {s u : State} (h : DataShape s) (start : s.txn.quadEn = true → s.txn.qs = Config.quadStart)
    (edge : EdgeEffect s u) : DataShape (u.setPos (s.txn.pos + 1)) := by
  have quadOf : s.onQuadPath = true → s.txn.quadEn = true := fun path => (onQuadPath_iff.mp path).1
  have singleOf : s.onQuadPath = false → s.txn.quadEn = false := fun path => by
    by_contra hn
    have hq := Bool.eq_true_of_not_eq_false hn
    rw [onQuadPath_iff.mpr ⟨hq, by rw [start hq]; exact h.past_capture⟩] at path
    cases path
  have past := h.past_capture
  cases edge with
  | high path half =>
    have hq := quadOf path
    exact ⟨h.captured, h.command, h.counted, fun _ => (h.quad hq).held half, fun hn => by simp [hq] at hn⟩
  | low path half =>
    exact h.append _ _ .quad rfl (fun hq => (h.quad hq).completed half) (fun hn => by simp [quadOf path] at hn)
  | check path half =>
    exact h.append _ _ .quad rfl (fun hq => ((h.quad hq).completed half).congr rfl rfl) (fun hn => by simp [quadOf path] at hn)
  | shift path bits =>
    have hq := singleOf path
    exact ⟨by simpa using h.captured, by simpa using h.command, by simpa using h.counted, fun hn => by simp [hq] at hn,
      fun _ => (h.single hq).shifted bits⟩
  | byte path bits =>
    exact h.append _ _ .single rfl (fun hn => by simp [singleOf path] at hn) (fun hq => (h.single hq).completed bits)
  | capture _ _ _ at7 => omega
  | free _ _ at7 => omega

/-- CMD_PHASE over a clock edge: a bit of the command byte, or its last one, which is the capture at position 7 (R105). -/
theorem CommandShape.clocked {s u : State} (h : CommandShape s) (edge : EdgeEffect s u) :
    (u = singleShifted s ∧ s.txn.pos < 7)
      ∨ (u = captureCommand (mosiShift s) (singleCompleted s) ∧ s.txn.pos = 7 ∧ s.la.sbits = 7#4) := by
  have single : s.onQuadPath = false := by simp [State.onQuadPath, h.notQuad]
  have pos7 : s.txn.pos = 7 ↔ s.la.sbits = 7#4 := by rw [h.bits]; exact BitVec.toNat_inj (y := 7#4)
  have inByte := h.inByte
  cases edge with
  | high path => simp [single] at path
  | low path => simp [single] at path
  | check path => simp [single] at path
  | shift _ bits => exact .inl ⟨rfl, by have := mt pos7.mp bits; omega⟩
  | byte _ bits _ noCapture => exact absurd ⟨pos7.mpr bits, h.fresh⟩ noCapture
  | capture _ bits _ at7 => exact .inr ⟨rfl, at7, bits⟩
  | free _ bits at7 => exact absurd (pos7.mp at7) bits

/-- A bit of the command byte before its last. -/
theorem CommandShape.shifted {s : State} (h : CommandShape s) (before : s.txn.pos < 7) :
    CommandShape ((singleShifted s).setPos (s.txn.pos + 1)) := by
  obtain ⟨fresh, noCommand, notQuad, bits, inByte, noHalf, noMosi, noMiso, noBytes⟩ := h
  have succ := sbits_succ (n := s.la.sbits) (by omega)
  constructor <;> simp [*]
  case inByte => omega

/-- The capture opens DATA_PHASE with the command at entry 0, on the path that the QUAD_TABLE chooses (R106, R107). -/
theorem CommandShape.captured {s : State} (h : CommandShape s) (at7 : s.txn.pos = 7) :
    DataShape ((captureCommand (mosiShift s) (singleCompleted s)).setPos (s.txn.pos + 1)) := by
  obtain ⟨fresh, noCommand, notQuad, bits, inByte, noHalf, noMosi, noMiso, noBytes⟩ := h
  refine ⟨by simp, by simp [noMosi], by simp [noMosi, noBytes, fresh], fun _ => ?_, fun _ => ?_⟩
  · constructor <;> simp [at7, noHalf, noMosi]
  · constructor <;> simp [at7, noHalf, noMosi, fresh, Entry.isByte]

/-! ### The event classes -/

/-- R103: a continuation starts at position 8 with the carried command at entry 0 and nothing behind it. -/
theorem quadShape_beginCont (s : State) : QuadShape (beginCont s) where
  started := le_refl 8
  noBits := rfl
  half := by simp [beginCont, Config.contPos]
  entries := by simp [beginCont, Config.contPos]
  bytes := fun _ he => nomatch he

theorem dataShape_beginCont {s : State} (hq : s.txn.quadEn = true) (captured : s.txn.cmdValid = true) :
    DataShape (beginCont s) where
  captured := captured
  command := rfl
  counted := rfl
  quad := fun _ => quadShape_beginCont s
  single := fun hn => nomatch hq.symm.trans hn

section
variable {s : State} (h : Consistent s)
include h

/-- A sample that moves nothing: an open window stays selected. -/
theorem Consistent.latched (stays : s.fsm.isOpen = true → s.csaNow = true) : Consistent (latchEdge s) :=
  h.congr rfl rfl rfl rfl rfl rfl fun hopen => ⟨rfl, stays hopen⟩

/-- BEGIN_FRESH, R102. -/
theorem Consistent.begun_fresh (noCont : s.ses.cont = false) (now : s.csaNow = true) : Consistent (latchEdge (beginFresh s)) where
  accepted := h.accepted
  width := h.width
  lengths := rfl
  quad := fun hq => nomatch hq
  cont := fun hc => by simp [beginFresh, noCont] at hc
  selected := fun _ => ⟨rfl, now⟩
  closed := fun hc => nomatch hc
  command := fun _ => ⟨rfl, rfl, rfl, rfl, Nat.zero_le 7, rfl, rfl, rfl, rfl⟩
  data := fun hd => nomatch hd

/-- BEGIN_CONT, R103: the carried command is quad-capable, and its byte is entry 0. -/
theorem Consistent.begun_cont (hc : s.ses.cont = true) (now : s.csaNow = true) : Consistent (latchEdge (beginCont s)) where
  accepted := h.accepted
  width := h.width
  lengths := rfl
  quad := h.quad
  cont := h.cont
  selected := fun _ => ⟨rfl, now⟩
  closed := fun hn => nomatch hn
  command := fun hn => nomatch hn
  data := fun _ => (dataShape_beginCont (h.cont hc).1 (h.quad (h.cont hc).1).2).congr rfl rfl

/-- EV_CS_ASSERT, R80. -/
theorem Consistent.begun (now : s.csaNow = true) : Consistent (latchEdge (beginTxn s)) := by
  unfold beginTxn
  cases hc : s.ses.cont with
  | true => exact h.begun_cont hc now
  | false => exact h.begun_fresh hc now

/-- EV_CS_DEASSERT, R81: an accepted build's toggle writes a legal width. -/
theorem Consistent.ended : Consistent (latchEdge (endTxn s)) where
  accepted := by simpa using h.accepted
  width := by
    obtain haw | ⟨-, g, hg, ht⟩ := endTxn_aw s
    · simpa [haw] using h.width
    · rw [ht]; exact legalWidth_newWidth h.accepted hg
  lengths := by simpa using h.lengths
  quad := by simpa using h.quad
  cont := by simpa using h.cont
  selected := fun hopen => by cases hc : s.ses.cont <;> simp [hc, Fsm.isOpen] at hopen
  closed := fun _ => ⟨by simp, by simp, by cases hc : s.ses.cont <;> simp [hc]⟩
  command := fun hf => by cases hc : s.ses.cont <;> simp [hc] at hf
  data := fun hf => by cases hc : s.ses.cont <;> simp [hc] at hf

variable {u : State} (edge : EdgeEffect s u) (now : s.csaNow = true)
include edge now

/-- What a clock edge leaves in place in either open state. -/
theorem Consistent.clocked_frame : configValid u.build u.cfg = true ∧ legalWidth u.ses.aw.toNat = true
    ∧ u.txn.mosiSeq.length = u.txn.misoSeq.length ∧ u.csaNow = true := by
  refine ⟨?_, ?_, edgeEffect_lengths edge h.lengths, ?_⟩
  · rw [edgeEffect_build edge, edgeEffect_cfg edge]; exact h.accepted
  · rw [edgeEffect_aw edge]; exact h.width
  · unfold State.csaNow; rw [edgeEffect_cfg edge, edgeEffect_smp edge]; exact now

/-- EV_CLK in CMD_PHASE: the next bit of the command byte, or DATA_PHASE. -/
theorem Consistent.clocked_command (hf : s.fsm = .cmdPhase) : Consistent (latchEdge (u.setPos (s.txn.pos + 1))) := by
  obtain ⟨accepted, width, lengths, sel⟩ := h.clocked_frame edge now
  have shape := h.command hf
  have noCont : s.ses.cont = false := by
    by_contra hc
    simpa [shape.notQuad] using (h.cont (Bool.eq_true_of_not_eq_false hc)).1
  obtain ⟨rfl, before⟩ | ⟨rfl, at7, bits⟩ := shape.clocked edge
  · exact {
      accepted, width, lengths
      quad := fun hq => by simp [shape.notQuad] at hq
      cont := fun hc => by simp [noCont] at hc
      selected := fun _ => ⟨rfl, sel⟩
      closed := fun hc => by simp [hf, Fsm.isOpen] at hc
      command := fun _ => (shape.shifted before).congr rfl rfl
      data := fun hd => by simp [hf] at hd }
  · exact {
      accepted, width, lengths
      quad := fun hq => ⟨captureCommand_qs shape.notQuad hq, by simp⟩
      cont := fun hc => by simp [noCont] at hc
      selected := fun _ => ⟨rfl, sel⟩
      closed := fun hc => by simp [Fsm.isOpen] at hc
      command := fun hc => by simp at hc
      data := fun _ => (shape.captured at7).congr rfl rfl }

/-- EV_CLK in DATA_PHASE: the command registers are kept, and a check that writes cont stands in a
quad transaction with a dummy window. -/
theorem Consistent.clocked_data (hf : s.fsm = .dataPhase) : Consistent (latchEdge (u.setPos (s.txn.pos + 1))) := by
  obtain ⟨accepted, width, lengths, sel⟩ := h.clocked_frame edge now
  have shape := h.data hf
  obtain ⟨hfsm, hcmd, hvalid, hquad, hqs, hdc⟩ | ⟨at7, -⟩ := edgeEffect_carried edge
  · exact {
      accepted, width, lengths
      quad := by simpa [hquad, hqs, hvalid] using h.quad
      cont := fun hc => by
        obtain same | ⟨path, -, -, dummy, -⟩ := edgeEffect_cont edge
        · simpa [hquad, hdc] using h.cont (same ▸ hc)
        · simpa [hquad, hdc] using ⟨(onQuadPath_iff.mp path).1, dummy⟩
      selected := fun _ => ⟨rfl, sel⟩
      closed := fun hc => by simp [hfsm, hf, Fsm.isOpen] at hc
      command := fun hc => by simp [hfsm, hf] at hc
      data := fun _ => (shape.clocked (fun hq => (h.quad hq).1) edge).congr rfl rfl }
  · have := shape.past_capture
    omega

/-- EV_CLK, R82. -/
theorem Consistent.clocked (opened : s.fsm.isOpen = true) : Consistent (latchEdge (u.setPos (s.txn.pos + 1))) := by
  cases hf : s.fsm with
  | idle => simp [hf, Fsm.isOpen] at opened
  | cmdPhase => exact h.clocked_command edge now hf
  | dataPhase => exact h.clocked_data edge now hf
  | contPending => simp [hf, Fsm.isOpen] at opened

end

/-- Every event class keeps the invariant, unless it faults. -/
theorem Consistent.event {s t : State} {i : Instr} (h : Consistent s) (he : EventEffect s i t) : Inv t := by
  intro clean
  cases he with
  | eos => exact h.congr rfl rfl rfl rfl rfl rfl h.selected
  | prime _ _ primed => exact h.latched fun hopen => by simpa [primed] using (h.selected hopen).1
  | assert _ _ _ _ _ now => exact h.begun now
  | deassert => exact h.ended
  | clk u _ _ opened _ now _ _ edge => exact h.clocked edge now opened
  | clkFault => cases clean
  | none _ _ _ _ noDeassert =>
    refine h.latched fun hopen => ?_
    by_contra hn
    exact noDeassert ⟨hopen, (h.selected hopen).2, Bool.eq_false_iff.mpr hn⟩

/-! ### Reset -/

/-- R155, R166: a reset that raises no fault has accepted its configuration. -/
theorem inv_resetWith (b : Build) (c : Configuration) : Inv (State.resetWith b c) := by
  intro clean
  have accepted : configValid b c = true := by
    by_contra hn
    simp [State.resetWith, hn] at clean
  exact {
    accepted
    width := legalWidth_awInit accepted
    lengths := rfl
    quad := fun hq => nomatch hq
    cont := fun hc => nomatch hc
    selected := fun hn => nomatch hn
    closed := fun _ => ⟨rfl, rfl, by simp [State.resetWith]⟩
    command := fun hn => nomatch hn
    data := fun hn => nomatch hn }

/-- R166: no record has left, and no window is open. -/
theorem outputOrdered_resetWith (b : Build) (c : Configuration) : OutputOrdered (State.resetWith b c) where
  ends := .nil
  starts := .nil
  bytes := fun _ hr => nomatch hr
  past := fun _ hr => nomatch hr
  spans := fun _ hr => nomatch hr
  opened := fun hn => nomatch hn
  assembling := fun hn => by simp [State.resetWith] at hn

/-! ### The items of R40 -/

section
variable {s : State} (h : Consistent s)
include h

/-- A half-assembled quad byte stands in DATA_PHASE of a quad-capable command. -/
theorem Consistent.quadShape_of_half (half : s.la.qhalf = true) : s.txn.quadEn = true ∧ QuadShape s := by
  have inData : s.fsm = .dataPhase := by
    cases hf : s.fsm with
    | idle => simpa [half] using (h.closed (by rw [hf]; rfl)).noHalf
    | cmdPhase => simpa [half] using (h.command hf).noHalf
    | dataPhase => rfl
    | contPending => simpa [half] using (h.closed (by rw [hf]; rfl)).noHalf
  have shape := h.data inData
  cases hq : s.txn.quadEn with
  | true => exact ⟨rfl, shape.quad hq⟩
  | false => simpa [half] using (shape.single hq).noHalf

/-- Bits of a single byte stand in an open window whose command is not known to be quad-capable. -/
theorem Consistent.open_of_bits (bits : s.la.sbits ≠ 0#4) :
    (s.fsm = .cmdPhase ∨ s.fsm = .dataPhase) ∧ s.txn.quadEn = false := by
  cases hf : s.fsm with
  | idle => exact absurd (h.closed (by rw [hf]; rfl)).noBits bits
  | cmdPhase => exact ⟨.inl rfl, (h.command hf).notQuad⟩
  | dataPhase =>
    refine ⟨.inr rfl, ?_⟩
    by_contra hq
    exact bits ((h.data hf).quad (Bool.eq_true_of_not_eq_false hq)).noBits
  | contPending => exact absurd (h.closed (by rw [hf]; rfl)).noBits bits

theorem Consistent.specInvariant : SpecInvariant s where
  item1 := by
    have legal : ∀ w : BitVec 3, legalWidth w.toNat = true → w = 1#3 ∨ w = 2#3 ∨ w = 3#3 ∨ w = 4#3 := by decide
    exact legal _ h.width
  item2 := h.lengths
  item4 := fun hopen => (h.selected (by obtain hf | hf := hopen <;> rw [hf] <;> rfl)).2
  item5cmd := fun hf => ⟨(h.command hf).fresh, (h.command hf).noCommand, (h.command hf).inByte⟩
  item5data := fun hf => (h.data hf).captured
  item6start := fun hq => (h.quad hq).1
  item6half := fun half => by
    obtain ⟨hq, shape⟩ := h.quadShape_of_half half
    have odd := shape.half.mp half
    have started := shape.started
    exact ⟨hq, by omega, odd⟩
  item7 := fun hb => by
    obtain ⟨hopen, hq⟩ := h.open_of_bits fun h0 => by simp [h0] at hb
    exact ⟨hopen, by simp [State.onSinglePath, State.onQuadPath, hq]⟩
  item8 := fun hc => by
    obtain ⟨hq, dummy⟩ := h.cont hc
    exact ⟨hq, dummy, (h.quad hq).2⟩
  item9 := fun hclosed => (h.closed (by obtain hf | hf := hclosed <;> rw [hf] <;> rfl)).pending

end

/-- R22: twice any address width fits afw. -/
theorem afw_toNat (s : State) : s.afw.toNat = 2 * s.ses.aw.toNat := by
  have double : ∀ w : BitVec 3, (2#4 * w.setWidth 4).toNat = 2 * w.toNat := by decide
  exact double _

/-! ### The statements -/

/-- Settles O53: a step takes no sample, resets, or presents one, and then stops or runs one event class. -/
theorem stepKeepsTheInvariant : Obligations.StepKeepsTheInvariant := by
  intro s t h hstep
  obtain ⟨-, rfl⟩ | ⟨rest, -, rfl⟩ | ⟨c, rest, -, rfl⟩ | ⟨smp, rest, hn⟩ := step_cases hstep
  · exact fun clean => (h clean).openStep []
  · exact fun clean => (h clean).openStep rest
  · exact fun clean => (inv_resetWith s.build c clean).openStep rest
  · obtain ⟨-, rfl⟩ | ⟨-, -, -, -, -, rfl⟩ | ⟨⟨noFault, -⟩, i, -, he⟩ := step_sample hn hstep
    · exact fun clean => (h clean).present smp rest
    · exact fun clean => nomatch clean
    · exact ((h noFault).present smp rest).event he

/-- Settles O48: a step on a sample changes cont only through an event class, and there only in the continuation check. -/
theorem contChangesOnlyInTheCheck : Obligations.ContChangesOnlyInTheCheck := by
  intro s t smp rest hn hstep changed
  obtain ⟨-, rfl⟩ | ⟨-, -, -, -, -, rfl⟩ | ⟨-, i, rfl, he⟩ := step_sample hn hstep
  · exact absurd rfl changed
  · exact absurd rfl changed
  · obtain same | ⟨hclk, path, half, at15, dummy, hcont⟩ := eventEffect_cont he
    · exact absurd same changed
    · obtain ⟨hq, hqs⟩ := onQuadPath_iff.mp path
      exact ⟨hclk, hq, hqs, half, at15, dummy, hcont.trans (hasSignature_quadLowByte _)⟩

/-- Settles O49: a step on a sample changes aw only through the toggle of a deassertion, whose record is made before the
write. -/
theorem widthChangesOnlyByAToggle : Obligations.WidthChangesOnlyByAToggle := by
  intro s t smp rest hn hstep changed
  obtain ⟨-, rfl⟩ | ⟨-, -, -, -, -, rfl⟩ | ⟨-, i, rfl, he⟩ := step_sample hn hstep
  · exact absurd rfl changed
  · exact absurd rfl changed
  · obtain same | ⟨hdeassert, hbytes, g, hg, rfl⟩ := eventEffect_aw he
    · exact absurd same changed
    · exact ⟨hdeassert, hbytes, g, hg, newWidth_toNat, _, rfl, rfl, rfl⟩

/-- Settles O55: every item follows from the shape of the fsm state; twice a three-bit width fits four bits. -/
theorem invariantGivesTheItemsOfTheSpec : Obligations.InvariantGivesTheItemsOfTheSpec :=
  fun s h => ⟨h.specInvariant, afw_toNat s⟩

/-- Settles O54: no window is open, no record has left, and R155 has accepted the configuration where fault is 0. -/
theorem resetHasTheInvariants : Obligations.ResetHasTheInvariants :=
  fun b c => ⟨inv_resetWith b c, outputOrdered_resetWith b c⟩

end Sys2Proof.Machine
end

section
/-! SUPPORT. The records an event class emits, and the order of R50 and R95 over one sample. -/

namespace Sys2Proof.Machine

/-! ### What a clock edge does to the records and to the start of a byte -/

@[simp] theorem captureCommand_startTs (m : Byte) (s : State) : (captureCommand m s).txn.startTs = s.txn.startTs := by
  obtain ⟨_, _, _, h⟩ := captureCommand_writes m s; rw [h]

@[simp] theorem quadHeld_io (s : State) : (quadHeld s).io = s.io := rfl
@[simp] theorem singleShifted_io (s : State) : (singleShifted s).io = s.io := by simp [singleShifted]

/-- R88: an edge before the eighth writes the start of the byte when it is the byte's first. -/
@[simp] theorem singleShifted_la_bstart (s : State) :
    (singleShifted s).la.bstart = if s.la.sbits = 0#4 then s.io.smp.ts else s.la.bstart := by simp [singleShifted]

theorem edgeEffect_startTs {s u : State} (h : EdgeEffect s u) : u.txn.startTs = s.txn.startTs := by
  cases h <;> simp

/-- R95: a clock edge emits no record, or the record of the byte under assembly, which ends with the edge. -/
theorem edgeEffect_trace {s u : State} (h : EdgeEffect s u) : u.io.trace = s.io.trace
    ∨ ∃ r : ByteRecord, u.io.trace = s.io.trace ++ [.byte r] ∧ r.startTs = s.la.bstart ∧ r.endTs = s.io.smp.ts
      ∧ (s.la.sbits ≠ 0#4 ∨ s.la.qhalf = true) := by
  cases h with
  | high => exact .inl rfl
  | low _ half => exact .inr ⟨_, rfl, rfl, rfl, .inr half⟩
  | check _ half => exact .inr ⟨_, rfl, rfl, rfl, .inr half⟩
  | shift => exact .inl (by simp)
  | byte _ bits => exact .inr ⟨_, rfl, rfl, rfl, .inl (by simp [bits])⟩
  | capture _ bits => exact .inr ⟨_, by rw [captureCommand_io]; rfl, rfl, rfl, .inl (by simp [bits])⟩
  | free => exact .inl (by simp)

/-- R88, R91: after a clock edge the start of the byte is this edge, or that of a byte already under assembly. -/
theorem edgeEffect_bstart {s u : State} (h : EdgeEffect s u) : u.la.bstart = s.io.smp.ts
    ∨ (u.la.bstart = s.la.bstart ∧ (s.la.sbits ≠ 0#4 ∨ s.la.qhalf = true)) := by
  have shifted : (singleShifted s).la.bstart = s.io.smp.ts
      ∨ ((singleShifted s).la.bstart = s.la.bstart ∧ (s.la.sbits ≠ 0#4 ∨ s.la.qhalf = true)) := by
    by_cases first : s.la.sbits = 0#4
    · exact .inl (by simp [first])
    · exact .inr ⟨by simp [first], .inl first⟩
  cases h with
  | high => exact .inl rfl
  | low _ half => exact .inr ⟨rfl, .inr half⟩
  | check _ half => exact .inr ⟨rfl, .inr half⟩
  | shift => exact shifted
  | byte _ bits => exact .inr ⟨rfl, .inl (by simp [bits])⟩
  | capture _ bits => exact .inr ⟨by rw [captureCommand_la]; rfl, .inl (by simp [bits])⟩
  | free => simpa using shifted

/-! ### What the two ends of a window do to the records -/

@[simp] theorem beginTxn_io (s : State) : (beginTxn s).io = s.io := by unfold beginTxn; split <;> rfl
@[simp] theorem beginTxn_startTs (s : State) : (beginTxn s).txn.startTs = s.io.smp.ts := by unfold beginTxn; split <;> rfl
@[simp] theorem beginTxn_la (s : State) : (beginTxn s).la = s.clearPartial.la := by unfold beginTxn; split <;> rfl

/-- A command row emits no record, or one annotation with the span of its window. -/
theorem commandEffect_trace {s t : State} (h : CommandEffect s t) : t.io.trace = s.io.trace
    ∨ ∃ r : AnnRecord, t.io.trace = s.io.trace ++ [.ann r] ∧ r.startTs = s.txn.startTs ∧ r.endTs = s.txn.endTs := by
  cases h with
  | silent => exact .inl rfl
  | noted _ r start stop => exact .inr ⟨r, rfl, start, stop⟩
  | toggled _ r start stop => exact .inr ⟨r, rfl, start, stop⟩

/-- R114: the end of a window emits no record, or one annotation from the window's start to this sample. -/
theorem endTxn_trace (s : State) : (endTxn s).io.trace = s.io.trace
    ∨ ∃ r : AnnRecord, (endTxn s).io.trace = s.io.trace ++ [.ann r] ∧ r.startTs = s.txn.startTs
      ∧ r.endTs = s.io.smp.ts := by
  obtain ⟨-, h⟩ | ⟨-, h⟩ := endTxn_effect s
  · rw [h]; exact .inl rfl
  · rw [h]; exact commandEffect_trace (interpret_effect (closeWindow s))

@[simp] theorem endTxn_smp (s : State) : (endTxn s).io.smp = s.io.smp := by
  obtain ⟨u, h, -, -, -, -, -, -, hsmp⟩ := endTxn_eq_settleFsm s; rw [h]; exact hsmp

/-! ### The order of the records over a sample -/

/-- The records that a sample may add without breaking the order: none, a byte that started before the sample, or an
annotation whose window opened after the last annotation's end. -/
inductive Emission (s : State) : List Record → Prop
  | silent : Emission s []
  | byte (r : ByteRecord) (start : r.startTs < s.io.smp.ts) (stop : r.endTs = s.io.smp.ts) : Emission s [.byte r]
  | ann (r : AnnRecord) (start : ∀ a ∈ s.annotations, a.endTs < r.startTs) (span : r.startTs ≤ s.io.smp.ts)
      (stop : r.endTs = s.io.smp.ts) : Emission s [.ann r]

theorem Emission.endTs {s : State} {new : List Record} (em : Emission s new) : ∀ r ∈ new, r.endTs = s.io.smp.ts := by
  cases em with
  | silent => exact fun _ hr => nomatch hr
  | byte r _ stop => exact List.forall_mem_singleton.mpr stop
  | ann r _ _ stop => exact List.forall_mem_singleton.mpr stop

theorem Emission.pairwise {s : State} {new : List Record} (em : Emission s new) (R : Record → Record → Prop) :
    new.Pairwise R := by
  cases em with
  | silent => exact .nil
  | byte => exact List.pairwise_singleton _ _
  | ann => exact List.pairwise_singleton _ _

theorem Emission.byteRecords {s : State} {new : List Record} (em : Emission s new) :
    ∀ r ∈ new.filterMap Record.byte?, r.startTs < r.endTs := by
  cases em with
  | silent => exact fun _ hr => nomatch hr
  | byte r start stop => simpa [Record.byte?, stop] using start
  | ann r => simp [Record.byte?]

theorem Emission.annotations {s : State} {new : List Record} (em : Emission s new) :
    ∀ r ∈ new.filterMap Record.ann?, (∀ a ∈ s.annotations, a.endTs < r.startTs) ∧ r.startTs ≤ r.endTs := by
  cases em with
  | silent => exact fun _ hr => nomatch hr
  | byte r => simp [Record.ann?]
  | ann r start span stop => simpa [Record.ann?, stop] using ⟨start, span⟩

@[simp] theorem latchEdge_annotations (s : State) : (latchEdge s).annotations = s.annotations := rfl
@[simp] theorem latchEdge_byteRecords (s : State) : (latchEdge s).byteRecords = s.byteRecords := rfl

theorem annotations_append {s u : State} {new : List Record} (trace : u.io.trace = s.io.trace ++ new) :
    u.annotations = s.annotations ++ new.filterMap Record.ann? := by
  simp [State.annotations, trace]

theorem byteRecords_append {s u : State} {new : List Record} (trace : u.io.trace = s.io.trace ++ new) :
    u.byteRecords = s.byteRecords ++ new.filterMap Record.byte? := by
  simp [State.byteRecords, trace]

/-- The order depends on the records, the edge registers, fsm, the window's start and the byte under assembly alone. -/
theorem OutputOrdered.congr {s t : State} (h : OutputOrdered s) (trace : t.io.trace = s.io.trace) (hed : t.ed = s.ed)
    (hfsm : t.fsm = s.fsm) (start : t.txn.startTs = s.txn.startTs) (hla : t.la = s.la) : OutputOrdered t := by
  obtain ⟨ends, starts, bytes, past, spans, opened, assembling⟩ := h
  unfold State.annotations at starts spans opened
  unfold State.byteRecords at bytes
  constructor <;> simpa only [State.annotations, State.byteRecords, trace, hed, hfsm, start, hla]

section
variable {s u : State} (h : OutputOrdered s) (later : s.ed.primed = true → s.ed.lastTs < s.io.smp.ts)
include h later

/-- Every record so far ends before the sample. -/
theorem OutputOrdered.before : ∀ r ∈ s.io.trace, r.endTs < s.io.smp.ts := fun r hr => by
  obtain ⟨primed, le⟩ := h.past r hr
  exact lt_of_le_of_lt le (later primed)

/-- A byte under assembly started before the sample. -/
theorem OutputOrdered.bstart_lt (held : s.la.sbits ≠ 0#4 ∨ s.la.qhalf = true) : s.la.bstart < s.io.smp.ts := by
  obtain ⟨primed, le⟩ := h.assembling held
  exact lt_of_le_of_lt le (later primed)

/-- Every annotation so far ends before the sample. -/
theorem OutputOrdered.annotations_before : ∀ r ∈ s.annotations, r.endTs < s.io.smp.ts := fun r hr => by
  obtain ⟨a, ha, hr⟩ := List.mem_filterMap.mp hr
  cases a with
  | byte b => cases hr
  | ann b => cases hr; exact h.before later _ ha

/-- An open window started before the sample, and after every annotation. -/
theorem OutputOrdered.window_before (opened : s.fsm.isOpen = true) :
    s.txn.startTs ≤ s.io.smp.ts ∧ ∀ r ∈ s.annotations, r.endTs < s.txn.startTs := by
  obtain ⟨primed, le, behind⟩ := h.opened opened
  exact ⟨le.trans (later primed).le, behind⟩

/-- The end of a window emits a record that the order admits, if any. -/
theorem OutputOrdered.emission_of_end (opened : s.fsm.isOpen = true) :
    ∃ new, Emission s new ∧ (endTxn s).io.trace = s.io.trace ++ new := by
  obtain ⟨le, behind⟩ := h.window_before later opened
  obtain same | ⟨r, trace, start, stop⟩ := endTxn_trace s
  · exact ⟨[], .silent, by simp [same]⟩
  · exact ⟨_, .ann r (start ▸ behind) (start ▸ le) stop, trace⟩

/-- A clock edge emits a byte record that the order admits, if any. -/
theorem OutputOrdered.emission_of_edge (edge : EdgeEffect s u) :
    ∃ new, Emission s new ∧ u.io.trace = s.io.trace ++ new ∧ u.annotations = s.annotations := by
  obtain same | ⟨r, trace, start, stop, held⟩ := edgeEffect_trace edge
  · exact ⟨[], .silent, by simp [same], by simp [State.annotations, same]⟩
  · exact ⟨_, .byte r (start ▸ h.bstart_lt later held) stop, trace, by simp [annotations_append trace, Record.ann?]⟩

variable {new : List Record} (em : Emission s new)
include em

/-- The records emitted join the order; the window and the byte that stay open are behind the latched timestamp. -/
theorem OutputOrdered.latched (trace : u.io.trace = s.io.trace ++ new) (port : u.io.smp = s.io.smp)
    (opened : u.fsm.isOpen = true → u.txn.startTs ≤ s.io.smp.ts ∧ ∀ r ∈ u.annotations, r.endTs < u.txn.startTs)
    (assembling : u.la.sbits ≠ 0#4 ∨ u.la.qhalf = true → u.la.bstart ≤ s.io.smp.ts) : OutputOrdered (latchEdge u) where
  ends := by
    rw [latchEdge_io, trace, List.pairwise_append]
    refine ⟨h.ends, em.pairwise _, fun a ha b hb => ?_⟩
    rw [em.endTs b hb]
    exact h.before later a ha
  starts := by
    rw [latchEdge_annotations, annotations_append trace, List.pairwise_append]
    refine ⟨h.starts, List.pairwise_filterMap.mpr (em.pairwise _), fun a ha b hb => ?_⟩
    exact lt_of_le_of_lt (h.spans a ha) ((em.annotations b hb).1 a ha)
  bytes := by
    rw [latchEdge_byteRecords, byteRecords_append trace]
    exact List.forall_mem_append.mpr ⟨h.bytes, em.byteRecords⟩
  past := by
    rw [latchEdge_io, trace]
    refine List.forall_mem_append.mpr ⟨fun r old => ⟨rfl, ?_⟩, fun r added => ⟨rfl, ?_⟩⟩
    · rw [latchEdge_ed_lastTs, port]; exact (h.before later r old).le
    · rw [latchEdge_ed_lastTs, port]; exact (em.endTs r added).le
  spans := by
    rw [latchEdge_annotations, annotations_append trace]
    exact List.forall_mem_append.mpr ⟨h.spans, fun r added => (em.annotations r added).2⟩
  opened := fun hopen => ⟨rfl, by simpa [port] using opened hopen⟩
  assembling := fun held => ⟨rfl, by simpa [port] using assembling held⟩

end

section
variable {s u : State} (h : OutputOrdered s) (later : s.ed.primed = true → s.ed.lastTs < s.io.smp.ts)
include h later

/-- EV_PRIME and EV_NONE, R77, R84: only the edge registers are written. -/
theorem OutputOrdered.kept : OutputOrdered (latchEdge s) :=
  h.latched later .silent (by simp) rfl (h.window_before later) fun held => (h.bstart_lt later held).le

/-- EV_CS_ASSERT, R80: the window starts at the sample, after every annotation, with nothing assembled (R97). -/
theorem OutputOrdered.begun : OutputOrdered (latchEdge (beginTxn s)) := by
  refine h.latched later .silent (by simp) (by simp) (fun _ => ⟨by simp, ?_⟩) fun held => by simp at held
  simpa [State.annotations] using h.annotations_before later

/-- EV_CS_DEASSERT, R81: the annotation spans the window, and no window stays open. -/
theorem OutputOrdered.ended (opened : s.fsm.isOpen = true) : OutputOrdered (latchEdge (endTxn s)) := by
  obtain ⟨new, em, trace⟩ := h.emission_of_end later opened
  have closed : (endTxn s).fsm.isOpen = false := by cases hc : s.ses.cont <;> simp [hc, Fsm.isOpen]
  exact h.latched later em trace (by simp) (fun hopen => nomatch closed.symm.trans hopen) fun held => by simp at held

/-- EV_CLK, R82: the window's start and the annotations are kept, and a byte's record starts at an edge before this one. -/
theorem OutputOrdered.clocked (opened : s.fsm.isOpen = true) (edge : EdgeEffect s u) (p : Nat) :
    OutputOrdered (latchEdge (u.setPos p)) := by
  obtain ⟨new, em, trace, same⟩ := h.emission_of_edge later edge
  have bstart : u.la.bstart ≤ s.io.smp.ts := by
    obtain now | ⟨kept, held⟩ := edgeEffect_bstart edge
    · exact now.le
    · exact kept ▸ (h.bstart_lt later held).le
  refine h.latched later em trace (edgeEffect_smp edge :) (fun _ => ?_) fun _ => bstart
  rw [setPos_txn_startTs, edgeEffect_startTs edge, show (u.setPos p).annotations = _ from same]
  exact h.window_before later opened

end

/-- Every event class keeps the order, on a sample that passes the check of R157. -/
theorem OutputOrdered.event {s t : State} {i : Instr} (h : OutputOrdered s)
    (later : s.io.smp.eos = true ∨ s.ed.primed = false ∨ s.ed.lastTs < s.io.smp.ts) (he : EventEffect s i t) :
    OutputOrdered t := by
  have increasing : s.io.smp.eos = false → s.ed.primed = true → s.ed.lastTs < s.io.smp.ts := fun eos primed => by
    simpa [eos, primed] using later
  cases he with
  | eos => exact h.congr rfl rfl rfl rfl rfl
  | prime _ eos => exact h.kept (increasing eos)
  | assert _ eos => exact h.begun (increasing eos)
  | deassert _ eos _ opened => exact h.ended (increasing eos) opened
  | clk u eos _ opened _ _ _ _ edge => exact h.clocked (increasing eos) opened edge _
  | clkFault => exact h.congr rfl rfl rfl rfl rfl
  | none _ eos => exact h.kept (increasing eos)

/-- Settles O56: a reset empties the log; a sample that is processed is later than every record and runs one event class;
any other step touches the ports and the fault registers alone. -/
theorem stepKeepsTheOutputOrder : Obligations.StepKeepsTheOutputOrder := by
  intro s t h hstep
  obtain ⟨-, rfl⟩ | ⟨rest, -, rfl⟩ | ⟨c, rest, -, rfl⟩ | ⟨smp, rest, hn⟩ := step_cases hstep
  · exact h.congr rfl rfl rfl rfl rfl
  · exact h.congr rfl rfl rfl rfl rfl
  · exact (outputOrdered_resetWith s.build c).congr rfl rfl rfl rfl rfl
  · have shown : OutputOrdered (s.present smp rest) := h.congr rfl rfl rfl rfl rfl
    obtain ⟨-, rfl⟩ | ⟨-, -, -, -, -, rfl⟩ | ⟨⟨-, -, later⟩, i, -, he⟩ := step_sample hn hstep
    · exact shown
    · exact shown.congr rfl rfl rfl rfl rfl
    · exact shown.event later he

end Sys2Proof.Machine
end

section
/-! SUPPORT. What every step keeps of the build and the configuration (R54, R167). -/

namespace Sys2Proof.Machine

/-- No event class writes the build or the configuration. -/
theorem eventEffect_fixed {s t : State} {i : Instr} (h : EventEffect s i t) : t.build = s.build ∧ t.cfg = s.cfg := by
  cases h with
  | eos => exact ⟨rfl, rfl⟩
  | prime => exact ⟨rfl, rfl⟩
  | assert => simp
  | deassert => simp
  | clk u _ _ _ _ _ _ _ edge => exact ⟨(edgeEffect_build edge :), (edgeEffect_cfg edge :)⟩
  | clkFault => exact ⟨rfl, rfl⟩
  | none => exact ⟨rfl, rfl⟩

/-- R54, R167: a step keeps the build, and the configuration unless it is a reset. -/
theorem steps_fixed {s t : State} (h : Steps s t) : t.build = s.build
    ∧ (t.cfg = s.cfg ∨ ∃ (c : Configuration) (rest : List PortInput), s.io.input = .reset c :: rest ∧ t.cfg = c) := by
  obtain ⟨-, rfl⟩ | ⟨rest, -, rfl⟩ | ⟨c, rest, hi, rfl⟩ | ⟨smp, rest, hn⟩ := step_cases h
  · exact ⟨rfl, .inl rfl⟩
  · exact ⟨rfl, .inl rfl⟩
  · exact ⟨rfl, .inr ⟨c, rest, hi, rfl⟩⟩
  · obtain ⟨-, rfl⟩ | ⟨-, -, -, -, -, rfl⟩ | ⟨-, i, -, he⟩ := step_sample hn h
    · exact ⟨rfl, .inl rfl⟩
    · exact ⟨rfl, .inl rfl⟩
    · obtain ⟨hb, hc⟩ := eventEffect_fixed he
      exact ⟨hb, .inl hc⟩

/-- Settles O50: the kind and the row of a command byte depend on the build alone, which every step keeps. -/
theorem tablesAndConfigurationAreFixed : Obligations.TablesAndConfigurationAreFixed := by
  intro s t h
  obtain ⟨build, cfg⟩ := steps_fixed h
  exact ⟨build, fun c => by simp [build], cfg⟩

end Sys2Proof.Machine
end

section
/-! SUPPORT. The digits of an assembled address (R44). -/

namespace Sys2Proof.Machine

/-- The value read before the bytes stands above their digits. -/
theorem bigEndian_div (vs : List Byte) (a : Nat) : bigEndian a vs / 256 ^ vs.length = a := by
  induction vs generalizing a with
  | nil => simp [bigEndian]
  | cons v vs ih =>
    have hv : v.toNat < 256 := v.isLt
    have step : bigEndian a (v :: vs) = bigEndian (a * 256 + v.toNat) vs := rfl
    rw [List.length_cons, pow_succ, ← Nat.div_div_eq_div_mul, step, ih]
    omega

/-- A byte is the digit with as many digits below it as bytes behind it. -/
theorem bigEndian_digit (vs : List Byte) (a k : Nat) (hk : k < vs.length) :
    bigEndian a vs / 256 ^ (vs.length - 1 - k) % 256 = vs[k].toNat := by
  induction vs generalizing a k with
  | nil => cases hk
  | cons v vs ih =>
    cases k with
    | zero =>
      have hv : v.toNat < 256 := v.isLt
      have above : bigEndian a (v :: vs) / 256 ^ vs.length = a * 256 + v.toNat := bigEndian_div vs _
      simp only [List.length_cons, Nat.add_sub_cancel, Nat.sub_zero, List.getElem_cons_zero, above]
      omega
    | succ k =>
      have hk : k < vs.length := Nat.lt_of_succ_lt_succ hk
      rw [List.getElem_cons_succ, ← ih (a * 256 + v.toNat) k hk, List.length_cons,
        show vs.length + 1 - 1 - (k + 1) = vs.length - 1 - k by omega]
      rfl

/-- Settles O39: over bytes the loop of R44 draws nothing, and each byte read moves the earlier ones one digit up. -/
theorem addressIsBigEndian : Obligations.AddressIsBigEndian := by
  intro s vs
  rw [assembleAddr_bytes]
  refine ⟨rfl, ?_, bigEndian_digit vs 0⟩
  have lt := bigEndian_lt vs 0
  rwa [Nat.zero_add, Nat.one_mul, show 256 = 2 ^ 8 from rfl, ← pow_mul] at lt

end Sys2Proof.Machine
end

section
/-! SUPPORT. No sample draws a free value in a state with the invariant (log 2). -/

namespace Sys2Proof.Machine

@[simp] theorem captureCommand_free (m : Byte) (s : State) : (captureCommand m s).free = s.free := by
  obtain ⟨_, _, _, h⟩ := captureCommand_writes m s; rw [h]

@[simp] theorem beginTxn_free (s : State) : (beginTxn s).free = s.free := by unfold beginTxn; split <;> rfl

/-- R105: a clock edge draws a free value only for a capture at position 7 whose edge completes no byte. -/
theorem edgeEffect_free {s u : State} (h : EdgeEffect s u) :
    u.free = s.free ∨ (s.txn.pos = 7 ∧ s.txn.isCont = false ∧ s.la.sbits ≠ 7#4) := by
  cases h with
  | high => exact .inl rfl
  | low => exact .inl rfl
  | check => exact .inl rfl
  | shift => exact .inl (by simp [singleShifted])
  | byte => exact .inl rfl
  | capture => exact .inl (by rw [captureCommand_free]; rfl)
  | free _ bits at7 fresh => exact .inr ⟨at7, fresh, bits⟩

theorem Entry.exists_of_isByte {e : Entry} (h : e.isByte = true) : ∃ v, e = .byte v := by
  cases e with
  | byte v => exact ⟨v, rfl⟩
  | empty => cases h

/-- The entries that R44 reads as the address are bytes. -/
def State.AddressIsBytes (s : State) : Prop :=
  ∀ e ∈ (s.txn.mosiSeq.drop 1).take s.ses.aw.toNat, e.isByte = true

/-- R44: a data command whose address entries are bytes draws no free value. -/
theorem dataCmd_free {s : State} (h : s.AddressIsBytes) (o : Nat) : (dataCmd o s).free = s.free := by
  have drawn : s.startAddr.2 = s := assembleAddr_isBytes (fun e he => Entry.exists_of_isByte (h e he)) 0 s
  unfold dataCmd
  split
  · rfl
  · dsimp only
    rw [drawn]
    split <;> rfl

theorem interpret_free {s : State} (h : s.AddressIsBytes) : (interpret s).free = s.free := by
  unfold interpret
  split
  · exact dataCmd_free h _
  · rfl
  · rfl
  · rfl

/-- R37: a window is open in two states of fsm. -/
theorem opened_iff {f : Fsm} : f.isOpen = true ↔ f = .cmdPhase ∨ f = .dataPhase := by
  cases f <;> simp [Fsm.isOpen]

section
variable {s : State} (h : Consistent s)
include h

/-- R94: up to four entries behind the command are bytes, and no address is longer. -/
theorem Consistent.address_bytes (inData : s.fsm = .dataPhase) : s.AddressIsBytes := by
  intro e he
  have shape := h.data inData
  cases hq : s.txn.quadEn with
  | true =>
    have width := h.width
    simp only [legalWidth, Bool.and_eq_true, decide_eq_true_eq] at width
    exact (shape.quad hq).bytes e (List.take_subset_take_left _ width.2 he)
  | false => exact (shape.single hq).bytes e (List.mem_of_mem_drop (List.mem_of_mem_take he))

/-- A window that is interpreted has its command, and its address entries are bytes. -/
theorem Consistent.endTxn_free (opened : s.fsm.isOpen = true) : (endTxn s).free = s.free := by
  obtain ⟨-, he⟩ | ⟨bytes, he⟩ := endTxn_effect s
  · rw [he]; rfl
  · rw [he]
    obtain inCommand | inData := opened_iff.mp opened
    · simp [(h.command inCommand).noBytes] at bytes
    · exact interpret_free (s := closeWindow s) (h.address_bytes inData)

/-- R105: at position 7 of a fresh transaction seven bits are held, so the edge completes the byte that is captured. -/
theorem Consistent.edge_free {u : State} (opened : s.fsm.isOpen = true) (edge : EdgeEffect s u) : u.free = s.free := by
  obtain same | ⟨at7, -, bits⟩ := edgeEffect_free edge
  · exact same
  · obtain inCommand | inData := opened_iff.mp opened
    · exact absurd (BitVec.eq_of_toNat_eq (y := 7#4) ((h.command inCommand).bits.symm.trans at7)) bits
    · have := (h.data inData).past_capture
      omega

/-- No event class draws a free value. -/
theorem Consistent.event_free {t : State} {i : Instr} (he : EventEffect s i t) : t.free = s.free := by
  cases he with
  | eos => rfl
  | prime => rfl
  | assert => exact beginTxn_free s
  | deassert _ _ _ opened => exact h.endTxn_free opened
  | clk u _ _ opened _ _ _ _ edge => exact (h.edge_free opened edge :)
  | clkFault => rfl
  | none => rfl

end

/-- Settles O58: a stopped block and a timestamp fault draw nothing, and neither does an event class of a state with the
invariant. -/
theorem noFreeValueIsDrawn : Obligations.NoFreeValueIsDrawn := by
  intro s t smp rest h hn hstep
  obtain ⟨-, rfl⟩ | ⟨-, -, -, -, -, rfl⟩ | ⟨⟨noFault, -⟩, i, -, he⟩ := step_sample hn hstep
  · rfl
  · rfl
  · exact ((h noFault).present smp rest).event_free he

end Sys2Proof.Machine
end

section
/-! SUPPORT. The rows of the encoding (R58 to R62): what each row of R59 says of the bits of a vector, what each kind of
R62 says of the tables, and the round trips between code words and instructions. -/

namespace Sys2Proof

/-! ### The rows of R59 -/

theorem rowEos_matches : ∀ {ev : EventVector}, rowEos.matches ev = true ↔ bitAt ev 6 = true := by decide
theorem rowPrime_matches : ∀ {ev : EventVector}, rowPrime.matches ev = true ↔ bitAt ev 6 = false ∧ bitAt ev 5 = false := by
  decide
theorem rowCsAssert_matches : ∀ {ev : EventVector}, rowCsAssert.matches ev = true ↔
    bitAt ev 6 = false ∧ bitAt ev 5 = true ∧ bitAt ev 4 = false ∧ bitAt ev 3 = false ∧ bitAt ev 2 = true := by decide
theorem rowCsDeassert_matches : ∀ {ev : EventVector}, rowCsDeassert.matches ev = true ↔
    bitAt ev 6 = false ∧ bitAt ev 5 = true ∧ bitAt ev 4 = true ∧ bitAt ev 3 = true ∧ bitAt ev 2 = false := by decide
theorem rowClk_matches : ∀ {ev : EventVector}, rowClk.matches ev = true ↔
    bitAt ev 6 = false ∧ bitAt ev 5 = true ∧ bitAt ev 4 = true ∧ bitAt ev 3 = true ∧ bitAt ev 2 = true
      ∧ bitAt ev 1 = false ∧ bitAt ev 0 = true := by decide

/-- The bits of R59 without the rows' order: a vector is EV_NONE's exactly when it matches none of the five rows. -/
theorem matchesEarlierRow_eq : ∀ ev : EventVector, matchesEarlierRow ev =
    (rowEos.matches ev || rowPrime.matches ev || rowCsAssert.matches ev || rowCsDeassert.matches ev || rowClk.matches ev) := by
  decide

/-! A vector that matches a row is the row's fixed bits before the operand. -/

theorem rowEos_operand : ∀ ev : EventVector, rowEos.matches ev = true → 0b1#1 ++ ev.extractLsb' 0 6 = ev := by decide
theorem rowPrime_operand : ∀ ev : EventVector, rowPrime.matches ev = true → 0b00#2 ++ ev.extractLsb' 0 5 = ev := by decide
theorem rowCsAssert_operand : ∀ ev : EventVector, rowCsAssert.matches ev = true → 0b01001#5 ++ ev.extractLsb' 0 2 = ev := by
  decide
theorem rowCsDeassert_operand : ∀ ev : EventVector, rowCsDeassert.matches ev = true → 0b01110#5 ++ ev.extractLsb' 0 2 = ev := by
  decide
theorem rowClk_operand : ∀ ev : EventVector, rowClk.matches ev = true → 0b0111101#7 = ev := by decide

/-! ### The class of a vector -/

theorem decodeVector_evEos : ∀ x : BitVec 6, decodeVector (0b1#1 ++ x) = .evEos x := by decide
theorem decodeVector_evPrime : ∀ x : BitVec 5, decodeVector (0b00#2 ++ x) = .evPrime x := by decide
theorem decodeVector_evCsAssert : ∀ x : BitVec 2, decodeVector (0b01001#5 ++ x) = .evCsAssert x := by decide
theorem decodeVector_evCsDeassert : ∀ x : BitVec 2, decodeVector (0b01110#5 ++ x) = .evCsDeassert x := by decide
theorem decodeVector_evClk : decodeVector 0b0111101#7 = .evClk := by decide

theorem decodeVector_evNone {ev : EventVector} (h : matchesEarlierRow ev = false) : decodeVector ev = .evNone ev := by
  simp only [matchesEarlierRow_eq, Bool.or_eq_false_iff] at h
  obtain ⟨⟨⟨⟨eos, prime⟩, assert⟩, deassert⟩, clk⟩ := h
  simp only [decodeVector, eos, prime, assert, deassert, clk, Bool.false_eq_true, ↓reduceIte]

/-- A vector that is the fixed bits of a row before an operand has the row's class. -/
theorem decodeVector_of_operand {n : Nat} {word : BitVec n → EventVector} {row : BitVec n → Instr}
    (class_of_word : ∀ x, decodeVector (word x) = row x) {ev : EventVector} {x : BitVec n} (h : word x = ev) :
    ∃ x, decodeVector ev = row x :=
  ⟨x, h ▸ class_of_word x⟩

/-- A vector is the encoding of its class: the first row that matches has the vector's bits. -/
theorem encode_decodeVector (t : Tables) {ev : EventVector} {i : Instr} (h : decodeVector ev = i) :
    encode t i = .vector ev := by
  subst h
  unfold decodeVector
  split_ifs with eos prime assert deassert clk
  · exact congrArg Code.vector (rowEos_operand ev eos)
  · exact congrArg Code.vector (rowPrime_operand ev prime)
  · exact congrArg Code.vector (rowCsAssert_operand ev assert)
  · exact congrArg Code.vector (rowCsDeassert_operand ev deassert)
  · exact congrArg Code.vector (rowClk_operand ev clk)
  · rfl

theorem wellFormed_decodeVector (t : Tables) (ev : EventVector) : (decodeVector ev).wellFormed t = true := by
  unfold decodeVector
  split_ifs with eos prime assert deassert clk
  · rfl
  · rfl
  · rfl
  · rfl
  · rfl
  · simp only [Instr.wellFormed, matchesEarlierRow_eq, eos, prime, assert, deassert, clk, Bool.or_self, Bool.not_false]

/-! ### The kind of a command byte (R62) -/

/-- The lookup order of R62: the first table that has the byte decides its kind. -/
theorem Tables.kindOf_cases (t : Tables) (c : Byte) :
    (∃ d, t.data.lookup c = some d ∧ t.kindOf c = .data d)
      ∨ (t.data.lookup c = none ∧ ∃ g, t.toggle.lookup c = some g ∧ t.kindOf c = .toggle g)
      ∨ (t.data.lookup c = none ∧ t.toggle.lookup c = none ∧ ∃ n, t.ctrl.lookup c = some n ∧ t.kindOf c = .control n)
      ∨ (t.data.lookup c = none ∧ t.toggle.lookup c = none ∧ t.ctrl.lookup c = none ∧ t.kindOf c = .unrecognized) := by
  unfold Tables.kindOf
  cases t.data.lookup c with
  | some d => simp
  | none =>
    cases t.toggle.lookup c with
    | some g => simp
    | none => cases t.ctrl.lookup c <;> simp

section
variable {t : Tables} {c : Byte}

theorem Tables.hasDataRow_iff {lane overhead : Nat} :
    t.hasDataRow c lane overhead = true ↔ ∃ d, t.kindOf c = .data d ∧ d.lane = lane ∧ d.overhead = overhead := by
  unfold Tables.hasDataRow
  obtain ⟨d, hd, hk⟩ | ⟨hd, g, -, hk⟩ | ⟨hd, -, n, -, hk⟩ | ⟨hd, -, -, hk⟩ := t.kindOf_cases c <;> simp [hd, hk]

theorem Tables.hasToggleRow_iff {w : Nat} : t.hasToggleRow c w = true ↔ ∃ g, t.kindOf c = .toggle g ∧ g.newAw = w := by
  unfold Tables.hasToggleRow
  obtain ⟨d, hd, hk⟩ | ⟨hd, g, hg, hk⟩ | ⟨hd, hg, n, -, hk⟩ | ⟨hd, hg, -, hk⟩ := t.kindOf_cases c <;> simp [*]

theorem wellFormed_control_iff : (Instr.control c).wellFormed t = true ↔ ∃ n, t.kindOf c = .control n := by
  unfold Instr.wellFormed
  obtain ⟨d, hd, hk⟩ | ⟨hd, g, hg, hk⟩ | ⟨hd, hg, n, hn, hk⟩ | ⟨hd, hg, hn, hk⟩ := t.kindOf_cases c <;> simp [*]

theorem wellFormed_unrecognized_iff : (Instr.unrecognized c).wellFormed t = true ↔ t.kindOf c = .unrecognized := by
  unfold Instr.wellFormed
  obtain ⟨d, hd, hk⟩ | ⟨hd, g, hg, hk⟩ | ⟨hd, hg, n, hn, hk⟩ | ⟨hd, hg, hn, hk⟩ := t.kindOf_cases c <;> simp [*]

/-! ### Round trips of a command byte and of a split class -/

/-- A command byte that decodes: the test of its row is what well-formedness asks of the instruction. -/
theorem encode_decodeCommand {i : Instr} (h : decodeCommand t c = .ok i) :
    encode t i = .command c ∧ i.wellFormed t = true := by
  unfold decodeCommand at h
  split at h
  · next d hk =>
    split_ifs at h with read fast quad
    · obtain ⟨rfl, row⟩ := read
      cases h
      exact ⟨rfl, Tables.hasDataRow_iff.mpr ⟨d, hk, row⟩⟩
    · obtain ⟨rfl, row⟩ := fast
      cases h
      exact ⟨rfl, Tables.hasDataRow_iff.mpr ⟨d, hk, row⟩⟩
    · obtain ⟨rfl, row⟩ := quad
      cases h
      exact ⟨rfl, Tables.hasDataRow_iff.mpr ⟨d, hk, row⟩⟩
  · next g hk =>
    split_ifs at h with enter leave
    · obtain ⟨rfl, row⟩ := enter
      cases h
      exact ⟨rfl, Tables.hasToggleRow_iff.mpr ⟨g, hk, row⟩⟩
    · obtain ⟨rfl, row⟩ := leave
      cases h
      exact ⟨rfl, Tables.hasToggleRow_iff.mpr ⟨g, hk, row⟩⟩
  · next n hk =>
    cases h
    exact ⟨rfl, wellFormed_control_iff.mpr ⟨n, hk⟩⟩
  · next hk =>
    cases h
    exact ⟨rfl, wellFormed_unrecognized_iff.mpr hk⟩

/-- The split of a class keeps the class's vector and is told apart by the selector; it needs no entry of the tables. -/
theorem encode_decodeSplit {ev : EventVector} {sel : Selector} {i : Instr} (h : decodeSplit ev sel = .ok i) :
    encode t i = .split ev sel ∧ i.wellFormed t = true := by
  have same {j : Instr} {w : EventVector} (hj : decodeVector ev = j) (hw : encode t j = .vector w) : w = ev :=
    Code.vector.inj (hw.symm.trans (encode_decodeVector t hj))
  unfold decodeSplit at h
  split at h
  · next clk hv => cases h; exact ⟨congrArg (Code.split · (.cont false)) (same hv rfl), rfl⟩
  · next clk hv => cases h; exact ⟨congrArg (Code.split · (.cont true)) (same hv rfl), rfl⟩
  · next hv => cases h; exact ⟨congrArg (Code.split · .single) (same hv rfl), rfl⟩
  · next hv => cases h; exact ⟨congrArg (Code.split · (.quad false)) (same hv rfl), rfl⟩
  · next hv => cases h; exact ⟨congrArg (Code.split · (.quad true)) (same hv rfl), rfl⟩
  · cases h

end

/-! ### The command map of the default tables -/

/-- A byte that is a key of no default table is unrecognised; CTRL_TABLE is empty (R23). -/
theorem kindOf_standard_of_no_key {c : Byte} (read : c ≠ 0x03#8) (fast : c ≠ 0x0B#8) (quad : c ≠ 0xEB#8)
    (enter : c ≠ 0xB7#8) (leave : c ≠ 0xE9#8) : Tables.standard.kindOf c = .unrecognized := by
  simp [Tables.kindOf, Tables.standard, Tables.withExit, List.lookup, beq_false_of_ne, *]

/-! ### The statements -/

/-- Settles O6: a command row's entry passes the decoder's test of that row, the fixed bits of an event row select its class,
and a selector selects its split. -/
theorem decodeEncodeRoundTrip : Obligations.DecodeEncodeRoundTrip := by
  intro t i h
  cases i with
  | read =>
    obtain ⟨d, hk, lane, overhead⟩ := Tables.hasDataRow_iff.mp h
    simp [encode, decode, decodeCommand, hk, lane, overhead]
  | fastRead =>
    obtain ⟨d, hk, lane, overhead⟩ := Tables.hasDataRow_iff.mp h
    simp [encode, decode, decodeCommand, hk, lane, overhead]
  | quadRead =>
    obtain ⟨d, hk, lane, overhead⟩ := Tables.hasDataRow_iff.mp h
    simp [encode, decode, decodeCommand, hk, lane, overhead]
  | en4b =>
    obtain ⟨g, hk, width⟩ := Tables.hasToggleRow_iff.mp h
    simp [encode, decode, decodeCommand, hk, width]
  | ex4b =>
    obtain ⟨g, hk, width⟩ := Tables.hasToggleRow_iff.mp h
    simp [encode, decode, decodeCommand, hk, width]
  | control c =>
    obtain ⟨n, hk⟩ := wellFormed_control_iff.mp h
    simp [encode, decode, decodeCommand, hk]
  | unrecognized c => simp [encode, decode, decodeCommand, wellFormed_unrecognized_iff.mp h]
  | evEos x => exact congrArg Except.ok (decodeVector_evEos x)
  | evPrime x => exact congrArg Except.ok (decodeVector_evPrime x)
  | evCsAssert clk => exact congrArg Except.ok (decodeVector_evCsAssert clk)
  | beginFresh clk => simp only [encode, decode, decodeSplit, decodeVector_evCsAssert]
  | beginCont clk => simp only [encode, decode, decodeSplit, decodeVector_evCsAssert]
  | evCsDeassert clk => exact congrArg Except.ok (decodeVector_evCsDeassert clk)
  | evClk => exact congrArg Except.ok decodeVector_evClk
  | singleEdge => simp only [encode, decode, decodeSplit, decodeVector_evClk]
  | quadHigh => simp only [encode, decode, decodeSplit, decodeVector_evClk]
  | quadLow => simp only [encode, decode, decodeSplit, decodeVector_evClk]
  | evNone ev => exact congrArg Except.ok (decodeVector_evNone (by simpa [Instr.wellFormed] using h))

/-- Settles O7: each kind of code word is the encoding of what it decodes to. -/
theorem encodeDecodeRoundTrip : Obligations.EncodeDecodeRoundTrip := by
  intro t c i h
  cases c with
  | command c => exact encode_decodeCommand h
  | vector ev =>
    have hv : decodeVector ev = i := Except.ok.inj h
    exact ⟨encode_decodeVector t hv, hv ▸ wellFormed_decodeVector t ev⟩
  | split ev sel => exact encode_decodeSplit h

/-- Settles O3: the bits of each clause make one row the first to match, or no row match. -/
theorem eventClassesByPriority : Obligations.EventClassesByPriority := by
  intro ev
  refine ⟨?eos, ?prime, ?assert, ?deassert, ?clk, ?closed, ?opened, ?held⟩
  case eos =>
    intro b6
    exact decodeVector_of_operand decodeVector_evEos (rowEos_operand ev (rowEos_matches.mpr b6))
  case prime =>
    intro b6 b5
    exact decodeVector_of_operand decodeVector_evPrime (rowPrime_operand ev (rowPrime_matches.mpr ⟨b6, b5⟩))
  case assert =>
    intro b6 b5 b4 b3 b2
    exact decodeVector_of_operand decodeVector_evCsAssert
      (rowCsAssert_operand ev (rowCsAssert_matches.mpr ⟨b6, b5, b4, b3, b2⟩))
  case deassert =>
    intro b6 b5 b4 b3 b2
    exact decodeVector_of_operand decodeVector_evCsDeassert
      (rowCsDeassert_operand ev (rowCsDeassert_matches.mpr ⟨b6, b5, b4, b3, b2⟩))
  case clk =>
    intro b6 b5 b4 b3 b2 b1 b0
    rw [← rowClk_operand ev (rowClk_matches.mpr ⟨b6, b5, b4, b3, b2, b1, b0⟩)]
    exact decodeVector_evClk
  case closed =>
    intro b6 b5 b4 b32
    exact decodeVector_evNone (by
      obtain b | b := b32 <;> simp [matchesEarlierRow, -BitVec.getLsbD_eq_getElem, b6, b5, b4, b])
  case opened =>
    intro b6 b5 b4 b3
    exact decodeVector_evNone (by simp [matchesEarlierRow, -BitVec.getLsbD_eq_getElem, b6, b5, b4, b3])
  case held =>
    intro b6 b5 b4 b3 b2 b10
    exact decodeVector_evNone (by
      obtain b | b := b10 <;> simp [matchesEarlierRow, -BitVec.getLsbD_eq_getElem, b6, b5, b4, b3, b2, b])

/-- Settles O4: each key of the default tables decodes to its own row, every other byte is unrecognised. -/
theorem standardCommandMap : Obligations.StandardCommandMap := by
  intro c
  split_ifs with read fast quad enter leave
  · subst read; rfl
  · subst fast; rfl
  · subst quad; rfl
  · subst enter; rfl
  · subst leave; rfl
  · simp only [decode, decodeCommand, kindOf_standard_of_no_key read fast quad enter leave]

/-- Settles O5: the words are concrete, so the decoder runs on each. -/
theorem decodesTheWordsOfTheTable : Obligations.DecodesTheWordsOfTheTable := by
  unfold Obligations.DecodesTheWordsOfTheTable
  decide

end Sys2Proof
end

section
/-! SUPPORT. The event vector of a state (R58), the totality of `exec` and `step` (R156), and the operands that the stimulus
statements (R70, R71) put on the lines. -/

namespace Sys2Proof.Machine

/-- R63, R156: every instruction answers a next state; the ones that may fault end in `commit`. -/
theorem exec_next (i : Instr) (s : State) : ∃ t, exec i s = .next t := by
  cases i with
  | read => exact ⟨_, rfl⟩
  | fastRead => exact ⟨_, rfl⟩
  | quadRead => exact ⟨_, rfl⟩
  | en4b => exact ⟨_, rfl⟩
  | ex4b => exact ⟨_, rfl⟩
  | control c => exact ⟨_, rfl⟩
  | unrecognized c => exact ⟨_, rfl⟩
  | evEos x => exact ⟨_, rfl⟩
  | evPrime x => exact ⟨_, rfl⟩
  | evCsAssert clk => exact ⟨_, rfl⟩
  | beginFresh clk => exact ⟨_, rfl⟩
  | beginCont clk => exact ⟨_, rfl⟩
  | evCsDeassert clk => exact ⟨_, rfl⟩
  | evClk => exact commit_next s (clockStep s)
  | singleEdge => exact commit_next s (stateOf (singleEdge s))
  | quadHigh => exact commit_next s (quadHigh s)
  | quadLow => exact commit_next s (stateOf (quadLow s))
  | evNone ev => exact ⟨_, rfl⟩

/-! ### The lines of a shot (R70) -/

section
variable (c : Configuration) (io3 io2 io1 io0 sclk cs : Bool)

theorem lineWord_bits : ∀ io3 io2 io1 io0 sclk cs : Bool,
    bitAt (lineWord io3 io2 io1 io0 sclk cs) 0 = cs ∧ bitAt (lineWord io3 io2 io1 io0 sclk cs) 1 = sclk
      ∧ bitAt (lineWord io3 io2 io1 io0 sclk cs) 2 = io0 ∧ bitAt (lineWord io3 io2 io1 io0 sclk cs) 3 = io1
      ∧ bitAt (lineWord io3 io2 io1 io0 sclk cs) 4 = io2 ∧ bitAt (lineWord io3 io2 io1 io0 sclk cs) 5 = io3 := by decide

@[simp] theorem csaOf_lineWord : csaOf c (lineWord io3 io2 io1 io0 sclk cs) = (cs == c.csActive) := by
  simp only [csaOf, lineWord_bits]
@[simp] theorem sOf_lineWord : sOf c (lineWord io3 io2 io1 io0 sclk cs) = (sclk ^^ (c.cpol ^^ c.cpha)) := by
  simp only [sOf, lineWord_bits]
@[simp] theorem mosiBit_lineWord : mosiBit (lineWord io3 io2 io1 io0 sclk cs) = io0 := by
  simp only [mosiBit, lineWord_bits]
@[simp] theorem misoBit_lineWord : misoBit (lineWord io3 io2 io1 io0 sclk cs) = io1 := by
  simp only [misoBit, lineWord_bits]
@[simp] theorem nibbleOf_lineWord :
    nibbleOf (lineWord io3 io2 io1 io0 sclk cs) = bit io3 ++ bit io2 ++ bit io1 ++ bit io0 := by
  simp only [nibbleOf, lineWord_bits]

end

theorem nibble_of_bits : ∀ n : Nibble, bit (bitAt n 3) ++ bit (bitAt n 2) ++ bit (bitAt n 1) ++ bit (bitAt n 0) = n := by
  decide

/-! ### The bits of a byte in the order of S8 (R71, R88) -/

/-- MSB first: the new bit enters at the bottom and the others move up. -/
theorem getElem_shiftIn_msbFirst (acc : Byte) (b : Bool) (i : Nat) (h : i < 8) :
    (shiftIn false acc b)[i] = if i = 0 then b else bitAt acc (i - 1) := by
  refine (BitVec.getElem_append (x := acc.extractLsb' 0 7) (y := bit b) h).trans ?_
  simp [bit]

/-- LSB first: the new bit enters at the top and the others move down. -/
theorem getElem_shiftIn_lsbFirst (acc : Byte) (b : Bool) (i : Nat) (h : i < 8) :
    (shiftIn true acc b)[i] = if i < 7 then bitAt acc (1 + i) else b := by
  refine (BitVec.getElem_append (x := bit b) (y := acc.extractLsb' 1 7) h).trans ?_
  simp [bit]

/-- Eight bits in the order of S8 push out what the accumulator held and leave the byte. -/
theorem shiftIn_bitIndices (c : Configuration) (v acc : Byte) :
    (bitIndices c).foldl (fun a j => shiftIn c.bitOrder a (bitAt v j)) acc = v := by
  refine BitVec.eq_of_getElem_eq fun i hi => ?_
  cases order : c.bitOrder with
  | false => interval_cases i <;> simp [bitIndices, order, getElem_shiftIn_msbFirst]
  | true => interval_cases i <;> simp [bitIndices, order, getElem_shiftIn_lsbFirst]

/-! ### The statements -/

/-- Settles O60: `lineWord` puts each operand on its line, the clock of the first shot is the level after which s is 0, and
the bits of a byte are shifted in one by one. -/
theorem stimulusDeliversItsOperands : Obligations.StimulusDeliversItsOperands := by
  intro c m b n v acc
  exact ⟨⟨_, _, rfl, by simp⟩, ⟨_, _, rfl, by simpa using nibble_of_bits n⟩, shiftIn_bitIndices c v acc⟩

/-- Settles O2: the vector is its seven bits in order; open, csa and s are those of R37 and R57. -/
theorem eventVectorBits : Obligations.EventVectorBits := by
  intro s
  have opened : s.fsm.isOpen = decide (s.fsm = .cmdPhase ∨ s.fsm = .dataPhase) := by
    rw [Bool.eq_iff_iff, decide_eq_true_iff]
    exact opened_iff
  exact ⟨eventVector_6 s, eventVector_5 s, (eventVector_4 s).trans opened, eventVector_3 s, eventVector_2 s,
    eventVector_1 s, eventVector_0 s⟩

/-- Settles O14: a step ends in the fetch, or runs an instruction. -/
theorem nothingStopsTheMachine : Obligations.NothingStopsTheMachine := by
  refine ⟨fun s i => exec_next i s, fun s => ?_⟩
  unfold step
  cases fetch s with
  | done s' => exact ⟨s', rfl⟩
  | run i s' => exact exec_next i s'

end Sys2Proof.Machine
end

section
/-! SUPPORT. The event classes on any vector (R76 to R85): what each can do to a state, what it leaves unchanged, and when a
step runs one. -/

namespace Sys2Proof.Machine

/-! ### What the operations of a class leave in run control and on the ports -/

@[simp] theorem captureCommand_rc (m : Byte) (s : State) : (captureCommand m s).rc = s.rc := by
  obtain ⟨_, _, _, h⟩ := captureCommand_writes m s; rw [h]

@[simp] theorem singleShifted_rc (s : State) : (singleShifted s).rc = s.rc := by simp [singleShifted]

/-- R105: a clock edge writes neither run control nor the annotation port, and takes no input. -/
theorem edgeEffect_frame {s u : State} (h : EdgeEffect s u) :
    u.rc = s.rc ∧ u.io.aev = s.io.aev ∧ u.io.input = s.io.input := by
  cases h with
  | high => exact ⟨rfl, rfl, rfl⟩
  | low => exact ⟨rfl, rfl, rfl⟩
  | check => exact ⟨rfl, rfl, rfl⟩
  | shift => simp
  | byte => exact ⟨rfl, rfl, rfl⟩
  | capture => rw [captureCommand_rc, captureCommand_io]; exact ⟨rfl, rfl, rfl⟩
  | free => simp

@[simp] theorem beginTxn_rc (s : State) : (beginTxn s).rc = s.rc := by unfold beginTxn; split <;> rfl

/-- A command row writes neither run control nor the byte-record port, and takes no input. -/
theorem commandEffect_rc_ports {s t : State} (h : CommandEffect s t) :
    t.rc = s.rc ∧ t.io.bev = s.io.bev ∧ t.io.input = s.io.input := by
  cases h <;> exact ⟨rfl, rfl, rfl⟩

/-- R114: the end of a window writes neither run control nor the byte-record port, and takes no input. -/
theorem endTxn_rc_ports (s : State) :
    (endTxn s).rc = s.rc ∧ (endTxn s).io.bev = s.io.bev ∧ (endTxn s).io.input = s.io.input := by
  obtain ⟨-, h⟩ | ⟨-, h⟩ := endTxn_effect s
  · rw [h]; exact ⟨rfl, rfl, rfl⟩
  · have kept := commandEffect_rc_ports (interpret_effect (closeWindow s))
    rw [h]; exact kept

@[simp] theorem endTxn_rc (s : State) : (endTxn s).rc = s.rc := (endTxn_rc_ports s).1
@[simp] theorem endTxn_bev (s : State) : (endTxn s).io.bev = s.io.bev := (endTxn_rc_ports s).2.1
@[simp] theorem endTxn_input (s : State) : (endTxn s).io.input = s.io.input := (endTxn_rc_ports s).2.2

/-! ### The effect of a class, whatever vector it was decoded from -/

/-- Everything an event class can do to a state. `EventEffect` is this for the state's own vector, with the bits it shows. -/
inductive ClassEffect (s : State) : Instr → State → Prop
  | eos (x : BitVec 6) : ClassEffect s (.evEos x) s.setHalted
  | prime (x : BitVec 5) : ClassEffect s (.evPrime x) (latchEdge s)
  | assert (x : BitVec 2) : ClassEffect s (.evCsAssert x) (latchEdge (beginTxn s))
  | deassert (x : BitVec 2) : ClassEffect s (.evCsDeassert x) (latchEdge (endTxn s))
  | clk (u : State) (edge : EdgeEffect s u) : ClassEffect s .evClk (latchEdge (u.setPos (s.txn.pos + 1)))
  | clkFault (c : FaultCause) : ClassEffect s .evClk (s.raiseFault c)
  | none (ev : EventVector) : ClassEffect s (.evNone ev) (latchEdge s)

theorem clockStep_ok {s t : State} (h : clockStep s = .ok t) :
    ∃ u, EdgeEffect s u ∧ t = latchEdge (u.setPos (s.txn.pos + 1)) := by
  unfold clockStep at h
  split at h
  · cases h
  · next v hv =>
    obtain ⟨u, edge, -, rfl⟩ := clockEdge_ok hv
    exact ⟨u, edge, (Except.ok.inj h).symm⟩

/-- R82, R156: EV_CLK is a clock edge, or the fault taken from the state before it. -/
theorem exec_evClk {s t : State} (h : exec .evClk s = .next t) : ClassEffect s .evClk t := by
  obtain ok | ⟨c, -, rfl⟩ := commit_eq_next.mp h
  · obtain ⟨u, edge, rfl⟩ := clockStep_ok ok
    exact .clk u edge
  · exact .clkFault c

/-- Inversion of the six event classes on any vector: one case for each row of R59. -/
theorem exec_class {s t : State} {ev : EventVector} (h : exec (decodeVector ev) s = .next t) :
    ClassEffect s (decodeVector ev) t := by
  unfold decodeVector at h ⊢
  split_ifs at h ⊢
  · cases h; exact .eos _
  · cases h; exact .prime _
  · cases h; exact .assert _
  · cases h; exact .deassert _
  · exact exec_evClk h
  · cases h; exact .none _

section
variable {s t : State} {i : Instr} (h : ClassEffect s i t)
include h

theorem classEffect_fixed : t.cfg = s.cfg ∧ t.build = s.build ∧ t.io.smp = s.io.smp ∧ t.io.input = s.io.input := by
  cases h with
  | eos => exact ⟨rfl, rfl, rfl, rfl⟩
  | prime => exact ⟨rfl, rfl, rfl, rfl⟩
  | assert => simp
  | deassert => simp
  | clk u edge =>
    obtain ⟨-, -, input⟩ := edgeEffect_frame edge
    simp [edgeEffect_cfg edge, edgeEffect_build edge, edgeEffect_smp edge, input]
  | clkFault => exact ⟨rfl, rfl, rfl, rfl⟩
  | none => exact ⟨rfl, rfl, rfl, rfl⟩

/-- R38: only the end of stream sets halted. -/
theorem classEffect_halted (noEos : ∀ x, i ≠ .evEos x) : t.rc.halted = s.rc.halted := by
  cases h with
  | eos x => exact absurd rfl (noEos x)
  | prime => rfl
  | assert => simp
  | deassert => simp
  | clk u edge =>
    obtain ⟨rc, -, -⟩ := edgeEffect_frame edge
    simp [rc]
  | clkFault => rfl
  | none => rfl

/-- R131, R141: only a deassertion interprets a command, which writes aw and the annotation port. -/
theorem classEffect_aw_aev (noDeassert : ∀ x, i ≠ .evCsDeassert x) : t.ses.aw = s.ses.aw ∧ t.io.aev = s.io.aev := by
  cases h with
  | eos => exact ⟨rfl, rfl⟩
  | prime => exact ⟨rfl, rfl⟩
  | assert => simp
  | deassert x => exact absurd rfl (noDeassert x)
  | clk u edge =>
    obtain ⟨-, aev, -⟩ := edgeEffect_frame edge
    simp [edgeEffect_aw edge, aev]
  | clkFault => exact ⟨rfl, rfl⟩
  | none => exact ⟨rfl, rfl⟩

/-- R24, R140, R156: only a clock edge checks for a continuation, faults, or completes a byte. -/
theorem classEffect_cont_fault_bev (noClk : i ≠ .evClk) :
    t.ses.cont = s.ses.cont ∧ t.rc.fault = s.rc.fault ∧ t.rc.faultCode = s.rc.faultCode ∧ t.io.bev = s.io.bev := by
  cases h with
  | eos => exact ⟨rfl, rfl, rfl, rfl⟩
  | prime => exact ⟨rfl, rfl, rfl, rfl⟩
  | assert => simp
  | deassert => simp
  | clk => exact absurd rfl noClk
  | clkFault => exact absurd rfl noClk
  | none => exact ⟨rfl, rfl, rfl, rfl⟩

/-- R42: only an assertion empties or seeds the buffers, and only a clock edge appends to them. -/
theorem classEffect_buffers (noClk : i ≠ .evClk) (noAssert : ∀ x, i ≠ .evCsAssert x) :
    t.txn.mosiSeq = s.txn.mosiSeq ∧ t.txn.misoSeq = s.txn.misoSeq := by
  cases h with
  | eos => exact ⟨rfl, rfl⟩
  | prime => exact ⟨rfl, rfl⟩
  | assert x => exact absurd rfl (noAssert x)
  | deassert => simp
  | clk => exact absurd rfl noClk
  | clkFault => exact absurd rfl noClk
  | none => exact ⟨rfl, rfl⟩

end

/-! ### The writes at the end of the step, and the split of an assertion -/

/-- R57, R76: the writes at the end of the step, with the levels read from the lines. -/
theorem latchEdge_eq (s : State) : latchEdge s = { s with ed :=
    { primed := true, csaPrev := decide (bitAt s.io.smp.lines 0 = s.cfg.csActive)
      sPrev := bitAt s.io.smp.lines 1 ^^ (s.cfg.cpol ^^ s.cfg.cpha), lastTs := s.io.smp.ts } } := rfl

@[simp] theorem beginTxn_csaNow (s : State) : (beginTxn s).csaNow = s.csaNow := by simp [State.csaNow]
@[simp] theorem beginTxn_sNow (s : State) : (beginTxn s).sNow = s.sNow := by simp [State.sNow]

/-- R80: opening a window leaves the levels and the timestamp that are latched. -/
theorem latchEdge_beginTxn (s : State) : latchEdge (beginTxn s) = { beginTxn s with ed :=
    { primed := true, csaPrev := s.csaNow, sPrev := s.sNow, lastTs := s.io.smp.ts } } := by simp [latchEdge]

/-- R59, R80: the instruction that the split of EV_CS_ASSERT by cont decodes to opens the window. -/
theorem exec_split_of_assert {s : State} {clk : BitVec 2} {i : Instr}
    (h : decodeSplit (0b01001#5 ++ clk) (.cont s.ses.cont) = .ok i) : exec i s = .next (beginTxn s) := by
  unfold decodeSplit at h
  unfold beginTxn
  rw [decodeVector_evCsAssert] at h
  cases hc : s.ses.cont with
  | false => rw [hc] at h; cases h; rfl
  | true => rw [hc] at h; cases h; rfl

/-! ### The statements -/

/-- Settles O45: each register's clause by the effects of the six classes; the entries are read from unchanged buffers. -/
theorem eventFrame : Obligations.EventFrame := by
  intro s t ev h
  have effect := exec_class h
  obtain ⟨cfg, build, smp, input⟩ := classEffect_fixed effect
  refine ⟨cfg, build, smp, input, classEffect_halted effect, classEffect_aw_aev effect, classEffect_cont_fault_bev effect, ?_⟩
  intro noClk noAssert k
  obtain ⟨mosi, miso⟩ := classEffect_buffers effect noClk noAssert
  exact ⟨congrArg (·[k]?) mosi, congrArg (·[k]?) miso⟩

/-- Settles O1: a vector decodes to its class, which a processed sample runs. -/
theorem stepRunsTheDecodedInstruction : Obligations.StepRunsTheDecodedInstruction := by
  intro s smp rest i hn hp hd
  obtain rfl : decodeVector (s.present smp rest).eventVector = i := Except.ok.inj hd
  exact ⟨step_processed hn hp, rfl⟩

/-- Settles O8: the step answers a state, and of the three things a sample can do only the first happens in a stopped block. -/
theorem stoppedBlockIgnoresSamples : Obligations.StoppedBlockIgnoresSamples := by
  intro s smp rest hn stopped
  obtain ⟨t, ht⟩ := nothingStopsTheMachine.2 s
  obtain ⟨-, rfl⟩ | ⟨clean, running, -⟩ | ⟨⟨clean, running, -⟩, -⟩ := step_sample hn ht
  · exact ht
  · simp [clean, running] at stopped
  · simp [clean, running] at stopped

/-- Settles O15: EV_EOS is the named write of halted. -/
theorem endOfStreamHalts : Obligations.EndOfStreamHalts := fun _ _ => rfl

/-- Settles O16: both classes are the writes at the end of the step alone. -/
theorem primeAndNoneLatchTheSample : Obligations.PrimeAndNoneLatchTheSample := by
  rintro s x ev t rfl
  rw [← latchEdge_eq]
  exact ⟨rfl, rfl⟩

/-- Settles O19: the split opens the window, and the edge registers are then written from the same sample. -/
theorem assertionRunsItsSplit : Obligations.AssertionRunsItsSplit := by
  intro s clk i h
  exact ⟨beginTxn s, exec_split_of_assert h, congrArg Host.Outcome.next (latchEdge_beginTxn s)⟩

end Sys2Proof.Machine
end

section
/-! SUPPORT. The lane assembler (R87 to R97): the sampling edges as writes to named registers, a run of eight of them, what
they leave unchanged, and the byte that a chip-select edge discards. -/

namespace Sys2Proof.Machine

/-! ### Room for a byte (R159) -/

theorem exceeds_eq_false {w : Option Nat} {v : Nat} : exceeds w v = false ↔ Fits w v := by
  cases w with
  | none => simp [exceeds, Fits]
  | some n => simp [exceeds, Fits]

theorem countOverflow_eq_false {s : State} : s.countOverflow = false ↔ s.ByteFits := by
  simp only [State.countOverflow, State.ByteFits, Bool.or_eq_false_iff, exceeds_eq_false, and_assoc]

/-! ### The operands as shifts and slices (R64, R88) -/

/-- R88: the bit-order multiplexer is a shift by one with the new bit at the free end. -/
theorem shiftIn_eq_shift (lsbFirst : Bool) (acc : Byte) (b : Bool) : shiftIn lsbFirst acc b =
    if lsbFirst then (acc >>> 1) ||| (if b then 0x80#8 else 0x00#8) else (acc <<< 1) ||| (if b then 0x01#8 else 0x00#8) := by
  refine BitVec.eq_of_getElem_eq fun i hi => ?_
  cases lsbFirst with
  | false => rw [getElem_shiftIn_msbFirst]; interval_cases i <;> cases b <;> simp
  | true => rw [getElem_shiftIn_lsbFirst]; interval_cases i <;> cases b <;> simp

/-- R64: the nibble is lines 5 to 2. -/
theorem nibbleOf_eq_extractLsb' : ∀ l : Lines, nibbleOf l = l.extractLsb' 2 4 := by decide

/-! ### The sampling edges that do not fault -/

theorem exec_singleEdge_shifted {s : State} (more : s.la.sbits ≠ 7#4) : exec .singleEdge s = .next (singleShifted s) := by
  change commit s (stateOf (singleEdge s)) = _
  rw [singleEdge_shifted more]; rfl

theorem exec_singleEdge_completed {s : State} (last : s.la.sbits = 7#4) (room : s.ByteFits) :
    exec .singleEdge s = .next (singleCompleted s) := by
  change commit s (stateOf (singleEdge s)) = _
  rw [singleEdge_completed last (countOverflow_eq_false.mpr room)]; rfl

theorem exec_quadHigh_held {s : State} (lines : s.cfg.hasQuad = true) : exec .quadHigh s = .next (quadHeld s) := by
  change commit s (quadHigh s) = _
  rw [quadHigh_present lines]; rfl

theorem exec_quadLow_completed {s : State} (lines : s.cfg.hasQuad = true) (room : s.ByteFits) :
    exec .quadLow s = .next (quadCompleted s) := by
  change commit s (stateOf (quadLow s)) = _
  rw [quadLow_present lines (countOverflow_eq_false.mpr room)]; rfl

/-- R88: what an edge before the eighth writes. -/
theorem singleShifted_eq (s : State) : singleShifted s = { s with la := { s.la with
    bstart := if s.la.sbits = 0#4 then s.io.smp.ts else s.la.bstart
    saccMosi := mosiShift s, saccMiso := misoShift s, sbits := s.la.sbits + 1#4 } } := by
  unfold singleShifted State.markByteStart
  split <;> rfl

/-! ### Many edges of one byte -/

/-- Bits shifted into an accumulator one after the other. -/
def shiftBits (lsbFirst : Bool) (bits : List Bool) (acc : Byte) : Byte := bits.foldl (shiftIn lsbFirst) acc

theorem shiftBits_append_singleton (lsbFirst : Bool) (bits : List Bool) (b : Bool) (acc : Byte) :
    shiftBits lsbFirst (bits ++ [b]) acc = shiftIn lsbFirst (shiftBits lsbFirst bits acc) b := List.foldl_append

/-- R88: where the bits of an accumulator go, and where the new one enters. -/
theorem bitAt_shiftIn (lsbFirst : Bool) (acc : Byte) (b : Bool) {i : Nat} (h : i < 8) : bitAt (shiftIn lsbFirst acc b) i =
    if lsbFirst then (if i < 7 then bitAt acc (1 + i) else b) else (if i = 0 then b else bitAt acc (i - 1)) := by
  rw [bitAt, BitVec.getLsbD_eq_getElem h]
  cases lsbFirst with
  | false => exact getElem_shiftIn_msbFirst acc b i h
  | true => exact getElem_shiftIn_lsbFirst acc b i h

/-- R88: where the k-th of n bits shifted in stands. -/
def bitPlace (lsbFirst : Bool) (n k : Nat) : Nat := if lsbFirst then 8 - n + k else n - 1 - k

/-- R88: up to eight bits shifted in are all there, whatever the accumulator held: the last one has just entered, and the
earlier ones have moved by one. -/
theorem bitAt_shiftBits (lsbFirst : Bool) (acc : Byte) (bits : List Bool) (few : bits.length ≤ 8) (k : Nat)
    (hk : k < bits.length) : bitAt (shiftBits lsbFirst bits acc) (bitPlace lsbFirst bits.length k) = bits[k] := by
  induction bits using List.reverseRecOn with
  | nil => simp at hk
  | append_singleton bits b ih =>
    rw [List.length_append, List.length_singleton] at few hk
    rw [shiftBits_append_singleton, List.length_append, List.length_singleton,
      bitAt_shiftIn _ _ _ (by unfold bitPlace; split <;> omega)]
    obtain earlier | rfl := Nat.lt_succ_iff_lt_or_eq.mp hk
    · rw [List.getElem_append_left earlier, ← ih (by omega) earlier]
      cases lsbFirst with
      | false =>
        rw [if_neg Bool.false_ne_true, if_neg (show bitPlace false (bits.length + 1) k ≠ 0 by simp [bitPlace]; omega)]
        exact congrArg (bitAt _) (show bits.length + 1 - 1 - k - 1 = bits.length - 1 - k by omega)
      | true =>
        rw [if_pos rfl, if_pos (show bitPlace true (bits.length + 1) k < 7 by simp [bitPlace]; omega)]
        exact congrArg (bitAt _) (show 1 + (8 - (bits.length + 1) + k) = 8 - bits.length + k by omega)
    · rw [List.getElem_concat_length rfl]
      cases lsbFirst with
      | false => simp [bitPlace]
      | true => rw [if_pos rfl, if_neg (show ¬bitPlace true (bits.length + 1) bits.length < 7 by simp [bitPlace]; omega)]

/-- R98: eight samples of one line give the byte, the first one at the end that the bit order names. -/
theorem bitAt_shiftBits_eight (lsbFirst : Bool) (acc : Byte) (line : Lines → Bool) {es : List (Nat × Lines)}
    (eight : es.length = 8) (k : Nat) (hk : k < es.length) :
    bitAt (shiftBits lsbFirst (es.map fun e => line e.2) acc) (if lsbFirst then k else 7 - k) = line es[k].2 := by
  have place := bitAt_shiftBits lsbFirst acc (es.map fun e => line e.2) (by simp [eight]) k (by simpa using hk)
  simpa [bitPlace, eight] using place

/-- The state with the sample of one edge on the port. -/
def State.withEdge (e : Nat × Lines) (s : State) : State :=
  { s with io := { s.io with smp := { ts := e.1, eos := false, lines := e.2 } } }

/-- One edge of `singleEdges`, and the rest. -/
theorem singleEdges_cons {e : Nat × Lines} {es : List (Nat × Lines)} {s u : State}
    (edge : exec .singleEdge (s.withEdge e) = .next u) : singleEdges (e :: es) s = singleEdges es u := by
  obtain ⟨ts, lines⟩ := e
  dsimp only [State.withEdge] at edge
  rw [singleEdges, edge]

theorem singleEdges_append {es fs : List (Nat × Lines)} {s u : State} (h : singleEdges es s = .next u) :
    singleEdges (es ++ fs) s = singleEdges fs u := by
  induction es generalizing s with
  | nil => cases h; rfl
  | cons e es ih =>
    obtain ⟨v, edge⟩ := exec_next .singleEdge (s.withEdge e)
    rw [singleEdges_cons edge] at h
    rw [List.cons_append, singleEdges_cons edge, ih h]

/-- What edges that complete no byte have done to the state: their bits are in the accumulators, and the first edge of the
byte, if it is one of them, is bstart. -/
structure EdgesShifted (es : List (Nat × Lines)) (s t : State) : Prop where
  cfg : t.cfg = s.cfg
  build : t.build = s.build
  txn : t.txn = s.txn
  sbits : t.la.sbits.toNat = s.la.sbits.toNat + es.length
  mosi : t.la.saccMosi = shiftBits s.cfg.bitOrder (es.map fun e => mosiBit e.2) s.la.saccMosi
  miso : t.la.saccMiso = shiftBits s.cfg.bitOrder (es.map fun e => misoBit e.2) s.la.saccMiso
  bstart : t.la.bstart = if s.la.sbits = 0#4 then (es.head?.map fun e => e.1).getD s.la.bstart else s.la.bstart

theorem EdgesShifted.nil (s : State) : EdgesShifted [] s s where
  cfg := rfl
  build := rfl
  txn := rfl
  sbits := rfl
  mosi := rfl
  miso := rfl
  bstart := by simp

theorem EdgesShifted.cons {e : Nat × Lines} {es : List (Nat × Lines)} {s t : State} (more : s.la.sbits.toNat < 7)
    (h : EdgesShifted es (singleShifted (s.withEdge e)) t) : EdgesShifted (e :: es) s t := by
  have count : (singleShifted (s.withEdge e)).la.sbits.toNat = s.la.sbits.toNat + 1 := by
    change (s.la.sbits + 1#4).toNat = _
    bv_omega
  have begun : (singleShifted (s.withEdge e)).la.sbits ≠ 0#4 := fun zero =>
    Nat.succ_ne_zero _ (count.symm.trans (congrArg BitVec.toNat zero))
  have order : (singleShifted (s.withEdge e)).cfg = s.cfg := by rw [singleShifted_eq]; rfl
  exact {
    cfg := h.cfg.trans order
    build := h.build.trans (by rw [singleShifted_eq]; rfl)
    txn := h.txn.trans (singleShifted_txn _)
    sbits := by rw [h.sbits, count, List.length_cons]; omega
    mosi := by rw [h.mosi, order]; rfl
    miso := by rw [h.miso, order]; rfl
    bstart := by rw [h.bstart, if_neg begun]; exact singleShifted_la_bstart _ }

/-- R88: edges before the eighth only shift. -/
theorem singleEdges_shifted (es : List (Nat × Lines)) (s : State) (few : s.la.sbits.toNat + es.length ≤ 7) :
    ∃ t, singleEdges es s = .next t ∧ EdgesShifted es s t := by
  induction es generalizing s with
  | nil => exact ⟨s, rfl, .nil s⟩
  | cons e es ih =>
    rw [List.length_cons] at few
    have edge := exec_singleEdge_shifted (s := s.withEdge e) (show s.la.sbits ≠ 7#4 by bv_omega)
    obtain ⟨t, run, shifted⟩ := ih (singleShifted (s.withEdge e))
      (by change (s.la.sbits + 1#4).toNat + _ ≤ 7; bv_omega)
    exact ⟨t, by rw [singleEdges_cons edge, run], .cons (by omega) shifted⟩

section
variable {init : List (Nat × Lines)} {s u : State} (h : EdgesShifted init s u) (e : Nat × Lines)
include h

theorem EdgesShifted.mosiShift_withEdge : mosiShift (u.withEdge e) =
    shiftBits s.cfg.bitOrder ((init ++ [e]).map fun e => mosiBit e.2) s.la.saccMosi := by
  rw [List.map_append, List.map_singleton, shiftBits_append_singleton, ← h.mosi, ← h.cfg]; rfl

theorem EdgesShifted.misoShift_withEdge : misoShift (u.withEdge e) =
    shiftBits s.cfg.bitOrder ((init ++ [e]).map fun e => misoBit e.2) s.la.saccMiso := by
  rw [List.map_append, List.map_singleton, shiftBits_append_singleton, ← h.miso, ← h.cfg]; rfl

theorem EdgesShifted.byteFits_withEdge (room : s.ByteFits) : (u.withEdge e).ByteFits := by
  unfold State.ByteFits State.withEdge
  rw [h.build, h.txn]
  exact room

end

/-- R88, R95: seven edges from a byte boundary shift, and the eighth completes the byte. -/
theorem singleEdges_completed {init : List (Nat × Lines)} {e : Nat × Lines} {s : State} (seven : init.length = 7)
    (boundary : s.la.sbits = 0#4) (room : s.ByteFits) :
    ∃ u, EdgesShifted init s u ∧ singleEdges (init ++ [e]) s = .next (singleCompleted (u.withEdge e)) := by
  obtain ⟨u, run, shifted⟩ := singleEdges_shifted init s (by simp [boundary, seven])
  have last : u.la.sbits = 7#4 := BitVec.eq_of_toNat_eq (by rw [shifted.sbits, boundary, seven]; rfl)
  have edge := exec_singleEdge_completed (s := u.withEdge e) last (shifted.byteFits_withEdge e room)
  exact ⟨u, shifted, by rw [singleEdges_append run, singleEdges_cons edge]; rfl⟩

/-! ### What the edges leave unchanged -/

/-- Everything SINGLE_EDGE, QUAD_HIGH and QUAD_LOW can do. -/
inductive AssemblerEffect (s : State) : Instr → State → Prop
  | shift (bits : s.la.sbits ≠ 7#4) : AssemblerEffect s .singleEdge (singleShifted s)
  | byte (bits : s.la.sbits = 7#4) (room : s.countOverflow = false) : AssemblerEffect s .singleEdge (singleCompleted s)
  | high (lines : s.cfg.hasQuad = true) : AssemblerEffect s .quadHigh (quadHeld s)
  | low (lines : s.cfg.hasQuad = true) (room : s.countOverflow = false) : AssemblerEffect s .quadLow (quadCompleted s)
  | fault (i : Instr) (c : FaultCause) : AssemblerEffect s i (s.raiseFault c)

theorem stateOf_ok {α : Type} {r : Except FaultCause (α × State)} {t : State} :
    stateOf r = .ok t ↔ ∃ a, r = .ok (a, t) := by
  cases r with
  | ok p => simp [stateOf, Prod.ext_iff]
  | error c => simp [stateOf]

/-- Inversion of the three rows (R156: a fault is taken from the state before the edge). -/
theorem exec_assembler {s t : State} {i : Instr} (row : i ∈ assemblerRows) (h : exec i s = .next t) :
    AssemblerEffect s i t := by
  simp only [assemblerRows, List.mem_cons, List.not_mem_nil, or_false] at row
  obtain rfl | rfl | rfl := row
  · obtain ok | ⟨c, -, rfl⟩ := commit_eq_next.mp h
    · obtain ⟨a, ok⟩ := stateOf_ok.mp ok
      obtain ⟨bits, eq⟩ | ⟨bits, room, eq⟩ := singleEdge_ok ok
      · cases eq; exact .shift bits
      · cases eq; exact .byte bits room
    · exact .fault _ c
  · obtain ok | ⟨c, -, rfl⟩ := commit_eq_next.mp h
    · obtain ⟨lines, rfl⟩ := quadHigh_ok ok
      exact .high lines
    · exact .fault _ c
  · obtain ok | ⟨c, -, rfl⟩ := commit_eq_next.mp h
    · obtain ⟨a, ok⟩ := stateOf_ok.mp ok
      obtain ⟨lines, room, eq⟩ := quadLow_ok ok
      cases eq; exact .low lines room
    · exact .fault _ c

section
variable {s t : State} {i : Instr} (h : AssemblerEffect s i t)
include h

theorem assemblerEffect_fixed : t.cfg = s.cfg ∧ t.build = s.build ∧ t.ses = s.ses ∧ t.ed = s.ed ∧ t.fsm = s.fsm
    ∧ t.free = s.free ∧ t.rc.halted = s.rc.halted ∧ t.io.smp = s.io.smp ∧ t.io.aev = s.io.aev
    ∧ t.io.input = s.io.input := by
  cases h with
  | shift => simp [singleShifted_eq]
  | byte => exact ⟨rfl, rfl, rfl, rfl, rfl, rfl, rfl, rfl, rfl, rfl⟩
  | high => exact ⟨rfl, rfl, rfl, rfl, rfl, rfl, rfl, rfl, rfl, rfl⟩
  | low => exact ⟨rfl, rfl, rfl, rfl, rfl, rfl, rfl, rfl, rfl, rfl⟩
  | fault => exact ⟨rfl, rfl, rfl, rfl, rfl, rfl, rfl, rfl, rfl, rfl⟩

/-- R42, R95: of the transaction registers an edge writes the buffers and nclk, and a buffer at most grows. -/
theorem assemblerEffect_txn : ∃ (em es : List Entry) (n : Nat), t.txn =
    { s.txn with mosiSeq := s.txn.mosiSeq ++ em, misoSeq := s.txn.misoSeq ++ es, nclk := n } := by
  cases h with
  | shift => exact ⟨[], [], s.txn.nclk, by simp⟩
  | byte => exact ⟨[_], [_], _, rfl⟩
  | high => exact ⟨[], [], s.txn.nclk, by simp⟩
  | low => exact ⟨[_], [_], _, rfl⟩
  | fault => exact ⟨[], [], s.txn.nclk, by simp⟩

/-- R91: QUAD_HIGH stores nothing and emits nothing. -/
theorem assemblerEffect_high (high : i = .quadHigh) :
    t.txn = s.txn ∧ t.io.bev = s.io.bev ∧ t.io.trace = s.io.trace := by
  cases h with
  | shift => cases high
  | byte => cases high
  | high => exact ⟨rfl, rfl, rfl⟩
  | low => cases high
  | fault => exact ⟨rfl, rfl, rfl⟩

end

/-! ### The statements -/

/-- Settles O23: the edge answers the shifted state, whose accumulators are shifts by one. -/
theorem singleEdgeShiftsBothLanes : Obligations.SingleEdgeShiftsBothLanes := by
  intro s more
  rw [exec_singleEdge_shifted more, singleShifted_eq]
  simp only [mosiShift, misoShift, mosiBit, misoBit, shiftIn_eq_shift]

/-- Settles O24: the edge answers the state of the byte completion, with the shifted accumulators as the byte. -/
theorem eighthEdgeCompletesAByte : Obligations.EighthEdgeCompletesAByte := by
  intro s last room
  exact ⟨mosiShift s, misoShift s, _, shiftIn_eq_shift _ _ _, shiftIn_eq_shift _ _ _, rfl,
    exec_singleEdge_completed last room⟩

/-- Settles O25: seven edges shift, and the eighth completes the byte of all eight bits, which starts at the first one. -/
theorem eightEdgesAssembleAByte : Obligations.EightEdgesAssembleAByte := by
  intro s es eight boundary room
  obtain ⟨init, e, rfl⟩ := List.eq_nil_or_concat' es |>.resolve_left fun nil => by simp [nil] at eight
  have seven : init.length = 7 := by simpa using eight
  obtain ⟨u, shifted, run⟩ := singleEdges_completed (e := e) seven boundary room
  refine ⟨_, mosiShift (u.withEdge e), misoShift (u.withEdge e), run, by rw [← shifted.txn]; rfl,
    by rw [← shifted.txn]; rfl, rfl, by rw [← shifted.txn]; rfl, fun k hk => ?_, _, rfl, rfl, rfl,
    by rw [← shifted.txn]; rfl, ?_, by rw [List.getLast?_concat]; rfl⟩
  · rw [shifted.mosiShift_withEdge, shifted.misoShift_withEdge]
    exact ⟨bitAt_shiftBits_eight _ _ mosiBit eight k hk, bitAt_shiftBits_eight _ _ misoBit eight k hk⟩
  · obtain ⟨first, rest, rfl⟩ := List.exists_cons_of_length_eq_add_one seven
    change some first.1 = some u.la.bstart
    rw [shifted.bstart, if_pos boundary]; rfl

/-- Settles O27: the byte is the held nibble and lines 5 to 2, and goes to the lane of `quadEntries`. -/
theorem quadLowCompletesTheByte : Obligations.QuadLowCompletesTheByte := by
  intro s lines room
  have byte : quadLowByte s = s.la.qhi ++ s.io.smp.lines.extractLsb' 2 4 := by
    rw [← nibbleOf_eq_extractLsb']; rfl
  refine ⟨(quadEntries s.txn.pos (quadLowByte s)).1, (quadEntries s.txn.pos (quadLowByte s)).2, _, fun upTo => ?_,
    fun after => ?_, rfl, exec_quadLow_completed lines room⟩
  · rw [quadEntries, if_pos (show s.txn.pos ≤ Config.thresh from upTo), byte]; exact ⟨rfl, rfl⟩
  · rw [quadEntries, if_neg (show ¬s.txn.pos ≤ Config.thresh from Nat.not_le.mpr after), byte]; exact ⟨rfl, rfl⟩

/-- Settles O29: by the effects of the three rows; an entry reads as before because a buffer only grows. -/
theorem assemblerFrame : Obligations.AssemblerFrame := by
  intro s t i row h
  have effect := exec_assembler row h
  obtain ⟨cfg, build, ses, ed, fsm, free, halted, smp, aev, input⟩ := assemblerEffect_fixed effect
  obtain ⟨em, es, n, txn⟩ := assemblerEffect_txn effect
  refine ⟨cfg, build, ses, ed, fsm, free, halted, smp, aev, input, by rw [txn], fun k hk => ?_, fun k hk => ?_,
    assemblerEffect_high effect⟩
  · rw [State.mosiEntry, txn]; exact List.getElem?_append_left hk
  · rw [State.misoEntry, txn]; exact List.getElem?_append_left hk

/-- Settles O22: both classes run ClearPartial, and neither end of a window writes the byte-record port. -/
theorem partialByteIsDiscarded : Obligations.PartialByteIsDiscarded := by
  refine fun s t clk => ⟨fun h => ?_, fun h => ?_⟩
  · obtain rfl : latchEdge (beginTxn s) = t := Host.Outcome.next.inj h
    simp [State.clearPartial]
  · obtain rfl : latchEdge (endTxn s) = t := Host.Outcome.next.inj h
    simp [State.clearPartial]

/-- Settles O26: QUAD_HIGH with the lines present is the write of the half byte, whose nibble is lines 5 to 2. -/
theorem quadHighHoldsTheNibble : Obligations.QuadHighHoldsTheNibble := by
  intro s lines
  rw [exec_quadHigh_held lines, quadHeld, nibbleOf_eq_extractLsb']

end Sys2Proof.Machine
end

section
/-! SUPPORT. The framer (R101 to R118): a clock edge and the end of a window forwards, as the state they answer, the phase
tag of an entry, the registers an event class carries over, and the moves of fsm. -/

namespace Sys2Proof.Machine

/-! ### A clock edge forwards: each effect of `EdgeEffect` is the edge's answer -/

theorem quadPart_of_effect {s u : State} (path : s.onQuadPath = true) (edge : EdgeEffect s u) : quadPart s = .ok u := by
  unfold quadPart
  cases edge with
  | high _ half lines => rw [half, quadHigh_present lines]; rfl
  | low _ half lines room noCheck =>
    rw [half, quadLow_present lines room]
    exact congrArg Except.ok (if_neg noCheck)
  | check _ half lines room dummy at15 =>
    rw [half, quadLow_present lines room]
    exact congrArg Except.ok (if_pos ⟨dummy, at15⟩)
  | shift single => simp [path] at single
  | byte single => simp [path] at single
  | capture single => simp [path] at single
  | free single => simp [path] at single

theorem singlePart_of_effect {s u : State} (path : s.onQuadPath = false) (edge : EdgeEffect s u) :
    singlePart s = .ok u := by
  unfold singlePart
  cases edge with
  | high quad => simp [path] at quad
  | low quad => simp [path] at quad
  | check quad => simp [path] at quad
  | shift _ bits noCapture =>
    rw [singleEdge_shifted bits]
    exact congrArg Except.ok (if_neg noCapture)
  | byte _ bits room noCapture =>
    rw [singleEdge_completed bits room]
    exact congrArg Except.ok (if_neg noCapture)
  | capture _ bits room at7 fresh =>
    rw [singleEdge_completed bits room]
    exact congrArg Except.ok (if_pos ⟨at7, fresh⟩)
  | free _ bits at7 fresh =>
    rw [singleEdge_shifted bits]
    exact congrArg Except.ok (if_pos ⟨at7, fresh⟩)

/-- R105: the converse of `clockEdge_ok`. -/
theorem clockEdge_of_effect {s u : State} (edge : EdgeEffect s u) (fits : Fits s.build.widths.posW (s.txn.pos + 1)) :
    clockEdge s = .ok (u.setPos (s.txn.pos + 1)) := by
  have advanced : advancePos s.txn.pos u = .ok (u.setPos (s.txn.pos + 1)) :=
    advancePos_ok.mpr ⟨by rw [edgeEffect_build edge]; exact exceeds_eq_false.mpr fits, rfl⟩
  unfold clockEdge
  cases path : s.onQuadPath with
  | true => rw [if_pos rfl, quadPart_of_effect path edge]; exact advanced
  | false => rw [if_neg Bool.false_ne_true, singlePart_of_effect path edge]; exact advanced

/-- R76: the edge registers take the levels and the timestamp of the sample, whatever else the class has written. -/
theorem latchEdge_of_port {s u : State} (cfg : u.cfg = s.cfg) (smp : u.io.smp = s.io.smp) : latchEdge u = { u with
    ed := { primed := true, csaPrev := s.csaNow, sPrev := s.sNow, lastTs := s.io.smp.ts } } := by
  simp only [latchEdge, State.csaNow, State.sNow, cfg, smp]

/-- R82, R105: EV_CLK answers the effect of its edge, with pos counted and the edge registers written. -/
theorem exec_evClk_of_effect {s u : State} (edge : EdgeEffect s u) (fits : Fits s.build.widths.posW (s.txn.pos + 1)) :
    exec .evClk s = .next { u with
      txn := { u.txn with pos := s.txn.pos + 1 }
      ed := { primed := true, csaPrev := s.csaNow, sPrev := s.sNow, lastTs := s.io.smp.ts } } := by
  change commit s (clockStep s) = _
  rw [clockStep, clockEdge_of_effect edge fits]
  exact congrArg Host.Outcome.next (latchEdge_of_port (edgeEffect_cfg edge :) (edgeEffect_smp edge :))

/-- R60: the rows that EV_CLK splits into, with the state bits that select each. -/
theorem split_of_clk {s : State} {i : Instr} (h : decodeSplit 0b0111101#7 s.edgeSelector = .ok i) :
    (i = .singleEdge ∧ s.onQuadPath = false) ∨ (i = .quadHigh ∧ s.onQuadPath = true ∧ s.la.qhalf = false)
      ∨ (i = .quadLow ∧ s.onQuadPath = true ∧ s.la.qhalf = true) := by
  unfold decodeSplit State.edgeSelector at h
  rw [decodeVector_evClk] at h
  cases path : s.onQuadPath with
  | false => rw [path] at h; cases h; exact .inl ⟨rfl, rfl⟩
  | true =>
    cases half : s.la.qhalf with
    | false => rw [path, half] at h; cases h; exact .inr (.inl ⟨rfl, rfl, rfl⟩)
    | true => rw [path, half] at h; cases h; exact .inr (.inr ⟨rfl, rfl, rfl⟩)

/-- R60: the split of EV_CLK, with the path written out. -/
theorem edgeSelector_eq (s : State) : s.edgeSelector =
    if s.txn.quadEn = true ∧ s.txn.qs.toNat ≤ s.txn.pos then .quad s.la.qhalf else .single := by
  simp only [State.edgeSelector, onQuadPath_iff]

/-- R105: away from the capture and the check, what the split does without a fault is the effect of the clock edge. -/
theorem edgeEffect_of_split {s t : State} {i : Instr} (split : decodeSplit 0b0111101#7 s.edgeSelector = .ok i)
    (h : exec i s = .next t) (noFault : t.rc.fault = false)
    (noCapture : ¬(i = .singleEdge ∧ s.txn.pos = 7 ∧ s.txn.isCont = false))
    (noCheck : ¬(i = .quadLow ∧ s.txn.pos = 15 ∧ 0 < s.txn.dc)) : EdgeEffect s t := by
  obtain ⟨rfl, path⟩ | ⟨rfl, path, half⟩ | ⟨rfl, path, half⟩ := split_of_clk split
  · cases exec_assembler (by simp [assemblerRows]) h with
    | shift bits => exact .shift path bits fun hc => noCapture ⟨rfl, hc⟩
    | byte bits room => exact .byte path bits room fun hc => noCapture ⟨rfl, hc⟩
    | fault => cases noFault
  · cases exec_assembler (by simp [assemblerRows]) h with
    | high lines => exact .high path half lines
    | fault => cases noFault
  · cases exec_assembler (by simp [assemblerRows]) h with
    | low lines room => exact .low path half lines room fun hc => noCheck ⟨rfl, hc.2, hc.1⟩
    | fault => cases noFault

/-- R106, R107: the capture with the QUAD_TABLE's answer in one piece. -/
theorem captureCommand_eq (m : Byte) (s : State) : captureCommand m s = { s with
    txn := { s.txn with
      cmd := m, cmdValid := true
      quadEn := (s.build.tables.quad.lookup m).isSome || s.txn.quadEn
      qs := if (s.build.tables.quad.lookup m).isSome then Config.quadStart else s.txn.qs
      dc := (s.build.tables.quad.lookup m).getD s.txn.dc }
    fsm := .dataPhase } := by
  cases found : s.build.tables.quad.lookup m with
  | none => rw [captureCommand_none found]; rfl
  | some dc => rw [captureCommand_some found]; rfl

/-! ### The end of a window forwards -/

/-- R62, R134: the command row that the tables give for cmd acts as the dispatch of the interpreter. -/
theorem exec_of_decodeCommand {s : State} {i : Instr} (h : decodeCommand s.build.tables s.txn.cmd = .ok i) :
    exec i s = .next (interpret s) := by
  obtain ⟨rfl, eq⟩ | ⟨rfl, eq⟩ | ⟨rfl, eq⟩ | ⟨rfl, eq⟩ | ⟨rfl, eq⟩ | ⟨rfl, eq⟩ | ⟨rfl, eq⟩ := interpret_of_decode h <;>
    exact congrArg Host.Outcome.next eq.symm

/-- R81, R114: EV_CS_DEASSERT once u is what the choice of fsm is made from: u keeps the registers that the end of the
step reads. -/
theorem exec_evCsDeassert_of_settle {s u : State} (clk : BitVec 2) (h : endTxn s = settleFsm u) (cfg : u.cfg = s.cfg)
    (cont : u.ses.cont = s.ses.cont) (smp : u.io.smp = s.io.smp) :
    exec (.evCsDeassert clk) s = .next { u with
      fsm := if s.ses.cont then .contPending else .idle
      ed := { primed := true, csaPrev := s.csaNow, sPrev := s.sNow, lastTs := s.io.smp.ts } } := by
  change Host.Outcome.next (latchEdge (endTxn s)) = _
  rw [h, latchEdge_of_port (u := settleFsm u) (cfg :) (smp :), settleFsm, cont]; rfl

/-! ### The phase tag -/

theorem phaseOf_of_data {s : State} {d : DataEntry} (h : s.build.tables.data.lookup s.txn.cmd = some d) (k : Nat) :
    s.phaseOf k = if k = 0 then .cmd else if k ≤ s.ses.aw.toNat then .addr
      else if k ≤ s.ses.aw.toNat + d.overhead then .dummy else .data := by
  rw [State.phaseOf, h]

theorem phaseOf_of_noData {s : State} (h : s.build.tables.data.lookup s.txn.cmd = none) (k : Nat) :
    s.phaseOf k = if k = 0 then .cmd else .data := by
  rw [State.phaseOf, h]

/-- R111: the data entries of a data command begin after the command, the address and the dummy bytes. -/
theorem phaseOf_eq_data_iff {s : State} {d : DataEntry} (h : s.build.tables.data.lookup s.txn.cmd = some d) (k : Nat) :
    s.phaseOf k = .data ↔ 1 + s.ses.aw.toNat + d.overhead ≤ k := by
  rw [phaseOf_of_data h]
  split_ifs <;> simp <;> omega

/-! ### The carried registers over an event -/

/-- R104: only an assertion that opens a fresh transaction and the capture write a carried register. -/
theorem eventEffect_carried {s t : State} {i : Instr} (h : EventEffect s i t) :
    (t.txn.cmd = s.txn.cmd ∧ t.txn.cmdValid = s.txn.cmdValid ∧ t.txn.quadEn = s.txn.quadEn ∧ t.txn.qs = s.txn.qs
        ∧ t.txn.dc = s.txn.dc)
      ∨ ((∃ x, i = .evCsAssert x) ∧ s.ses.cont = false) ∨ (i = .evClk ∧ s.txn.pos = 7 ∧ s.txn.isCont = false) := by
  cases h with
  | eos => exact .inl ⟨rfl, rfl, rfl, rfl, rfl⟩
  | prime => exact .inl ⟨rfl, rfl, rfl, rfl, rfl⟩
  | assert x =>
    cases cont : s.ses.cont with
    | false => exact .inr (.inl ⟨⟨x, rfl⟩, rfl⟩)
    | true => rw [beginTxn, if_pos cont]; exact .inl ⟨rfl, rfl, rfl, rfl, rfl⟩
  | deassert => simp
  | clk u _ _ _ _ _ _ _ edge =>
    obtain ⟨-, kept⟩ | capture := edgeEffect_carried edge
    · exact .inl kept
    · exact .inr (.inr ⟨rfl, capture⟩)
  | clkFault => exact .inl ⟨rfl, rfl, rfl, rfl, rfl⟩
  | none => exact .inl ⟨rfl, rfl, rfl, rfl, rfl⟩

/-! ### The moves of fsm (R101) -/

section
variable {s t : State} (h : Consistent s)
include h

/-- R108: an assertion resumes exactly the transaction that is pending. -/
theorem Consistent.fsm_assert {x : BitVec 2} (he : EventEffect s (.evCsAssert x) t) :
    (s.fsm = .idle ∧ s.ses.cont = false ∧ t.fsm = .cmdPhase)
      ∨ (s.fsm = .contPending ∧ s.ses.cont = true ∧ t.fsm = .dataPhase) := by
  cases he with
  | assert _ _ _ closed =>
    have pending := (h.closed closed).pending
    rw [latchEdge_fsm, beginTxn]
    cases hf : s.fsm with
    | idle =>
      have fresh : s.ses.cont = false := by simpa [hf] using pending
      rw [fresh]; exact .inl ⟨rfl, rfl, rfl⟩
    | cmdPhase => simp [hf, Fsm.isOpen] at closed
    | dataPhase => simp [hf, Fsm.isOpen] at closed
    | contPending =>
      have resumed : s.ses.cont = true := by simpa [hf] using pending
      rw [resumed]; exact .inr ⟨rfl, rfl, rfl⟩

/-- R105, R106: a sampling edge leaves CMD_PHASE at position 7 only, and DATA_PHASE never. -/
theorem Consistent.fsm_clk (he : EventEffect s .evClk t) (clean : t.rc.fault = false) :
    (s.fsm = .cmdPhase ∧ s.txn.pos < 7 ∧ t.fsm = .cmdPhase) ∨ (s.fsm = .cmdPhase ∧ s.txn.pos = 7 ∧ t.fsm = .dataPhase)
      ∨ (s.fsm = .dataPhase ∧ t.fsm = .dataPhase) := by
  cases he with
  | clkFault => cases clean
  | clk u _ _ opened _ _ _ _ edge =>
    rw [latchEdge_fsm, setPos_fsm]
    obtain hf | hf := opened_iff.mp opened
    · obtain ⟨rfl, before⟩ | ⟨rfl, at7, -⟩ := (h.command hf).clocked edge
      · exact .inl ⟨hf, before, by rw [singleShifted_fsm, hf]⟩
      · exact .inr (.inl ⟨hf, at7, captureCommand_fsm _ _⟩)
    · obtain ⟨same, -⟩ | ⟨at7, -⟩ := edgeEffect_carried edge
      · exact .inr (.inr ⟨hf, by rw [same, hf]⟩)
      · have := (h.data hf).past_capture
        omega

end

/-- R114: a deassertion closes an open window, and cont says whether it is to be resumed. -/
theorem eventEffect_fsm_deassert {s t : State} {x : BitVec 2} (he : EventEffect s (.evCsDeassert x) t) :
    (s.fsm = .cmdPhase ∨ s.fsm = .dataPhase)
      ∧ ((t.ses.cont = false ∧ t.fsm = .idle) ∨ (t.ses.cont = true ∧ t.fsm = .contPending)) := by
  cases he with
  | deassert _ _ _ opened =>
    refine ⟨opened_iff.mp opened, ?_⟩
    rw [latchEdge_ses, latchEdge_fsm, endTxn_ses_cont, endTxn_fsm]
    cases s.ses.cont with
    | false => exact .inl ⟨rfl, rfl⟩
    | true => exact .inr ⟨rfl, rfl⟩

/-- R101: the other classes leave fsm. -/
theorem eventEffect_fsm_kept {s t : State} {i : Instr} (he : EventEffect s i t) (noAssert : ∀ x, i ≠ .evCsAssert x)
    (noClk : i ≠ .evClk) (noDeassert : ∀ x, i ≠ .evCsDeassert x) : t.fsm = s.fsm := by
  cases he with
  | eos => rfl
  | prime => rfl
  | assert x => exact absurd rfl (noAssert x)
  | deassert x => exact absurd rfl (noDeassert x)
  | clk => exact absurd rfl noClk
  | clkFault => exact absurd rfl noClk
  | none => rfl

/-! ### The statements -/

/-- Settles O21: the command row is the interpreter on the closed window, and keeps what the end of the step reads. -/
theorem deassertionRunsTheCommand : Obligations.DeassertionRunsTheCommand := by
  intro s clk i bytes decoded
  have ends : endTxn s = settleFsm (interpret (closeWindow s)) := by
    obtain ⟨noBytes, -⟩ | ⟨-, ends⟩ := endTxn_effect s
    · omega
    · exact ends
  obtain ⟨cfg, -, cont, -, -, -, smp⟩ := commandEffect_frame (interpret_effect (closeWindow s))
  exact ⟨interpret (closeWindow s), exec_of_decodeCommand (s := closeWindow s) decoded, cont,
    exec_evCsDeassert_of_settle clk ends cfg cont smp⟩

/-- Settles O30: the split's state is an effect of the clock edge, which EV_CLK answers with pos counted. -/
theorem clockEdgeRunsItsSplit : Obligations.ClockEdgeRunsItsSplit := by
  intro s t i decoded h _ noFault fits noCapture noCheck
  rw [← edgeSelector_eq] at decoded
  exact exec_evClk_of_effect (edgeEffect_of_split decoded h noFault noCapture noCheck) fits

/-- Settles O31: the eighth edge completes the byte that the capture takes as the command. -/
theorem commandIsCapturedAtPosition7 : Obligations.CommandIsCapturedAtPosition7 := by
  intro s single at7 fresh last room fits
  have path : s.onQuadPath = false := by rwa [← onQuadPath_iff, Bool.not_eq_true] at single
  have edge := EdgeEffect.capture path last (countOverflow_eq_false.mpr room) at7 fresh
  refine ⟨mosiShift s, singleCompleted s, exec_singleEdge_completed last room, rfl, ?_⟩
  rw [exec_evClk_of_effect edge (at7 ▸ fits), at7, captureCommand_eq]; rfl

/-- Settles O32: the check takes the byte of QUAD_LOW, of which the held nibble decides. -/
theorem continuationCheckAtPosition15 : Obligations.ContinuationCheckAtPosition15 := by
  intro s quad started lines half at15 dummy room fits
  have path := onQuadPath_iff.mpr ⟨quad, started⟩
  have edge := EdgeEffect.check path half lines (countOverflow_eq_false.mpr room) dummy at15
  refine ⟨quadCompleted s, exec_quadLow_completed lines room, ?_⟩
  rw [exec_evClk_of_effect edge (at15 ▸ fits), at15, contCheck, hasSignature_quadLowByte]; rfl

/-- Settles O44: the tags by the definition's branches; of the first n entries those from 1 + aw + overhead on are
tagged DATA. -/
theorem phaseTags : Obligations.PhaseTags := by
  refine fun s => ⟨phaseOf_of_noData, fun d found => ⟨phaseOf_of_data found, fun n => ?_⟩⟩
  simp only [phaseOf_eq_data_iff found]
  rw [← List.Ico.zero_bot, List.Ico.filter_le, List.Ico.length]
  omega

/-- Settles O51: a step on a sample writes a carried register only through an event class. -/
theorem carriedPrefixIsKept : Obligations.CarriedPrefixIsKept := by
  intro s t smp rest hn hstep changed
  obtain ⟨-, rfl⟩ | ⟨-, -, -, -, -, rfl⟩ | ⟨-, i, rfl, he⟩ := step_sample hn hstep
  · exact absurd ⟨rfl, rfl, rfl, rfl, rfl⟩ changed
  · exact absurd ⟨rfl, rfl, rfl, rfl, rfl⟩ changed
  · exact (eventEffect_carried he).resolve_left changed

/-- Settles O52: a processed sample runs one event class, and each class has its row of the table. -/
theorem fsmTransitionTable : Obligations.FsmTransitionTable := by
  intro s t smp rest h hn hp hstep clean
  have shown := h.present smp rest
  have he := exec_event ((step_processed hn hp).symm.trans hstep)
  refine ⟨fun x hx => ?_, fun hclk => ?_, fun x hx => ?_, eventEffect_fsm_kept (s := s.present smp rest) he⟩
  · rw [hx] at he; exact shown.fsm_assert he
  · rw [hclk] at he; exact shown.fsm_clk he clean
  · rw [hx] at he; exact eventEffect_fsm_deassert (s := s.present smp rest) he

/-- Settles O17: the writes of BeginFresh and of ClearPartial. -/
theorem beginFreshOpensATransaction : Obligations.BeginFreshOpensATransaction := fun _ _ => rfl

/-- Settles O18: the writes of BeginCont and of ClearPartial. -/
theorem beginContResumesTheCommand : Obligations.BeginContResumesTheCommand := fun _ _ => rfl

/-- Settles O20: a window without a byte goes from the closing writes to the choice of fsm. -/
theorem degenerateWindowIsSkipped : Obligations.DegenerateWindowIsSkipped := by
  intro s clk empty
  have ends : endTxn s = settleFsm (closeWindow s) := by
    obtain ⟨-, ends⟩ | ⟨bytes, -⟩ := endTxn_effect s
    · exact ends
    · omega
  exact exec_evCsDeassert_of_settle clk ends rfl rfl rfl

end Sys2Proof.Machine
end

section
/-! SUPPORT. The command interpreter (R119 to R138): the state that each command row answers, a data command over an address
of bytes, and the registers that the interpretation of a window does not read. -/

namespace Sys2Proof.Machine

/-! ### The rows as their shared operation -/

/-- R119 to R121: a data row is DataCmd with the row's overhead. -/
theorem exec_dataRow {i : Instr} {ovh : Nat} (row : (i, ovh) ∈ dataRows) (s : State) :
    exec i s = .next (dataCmd ovh s) := by
  simp only [dataRows, List.mem_cons, Prod.mk.injEq, List.not_mem_nil, or_false] at row
  obtain ⟨rfl, rfl⟩ | ⟨rfl, rfl⟩ | ⟨rfl, rfl⟩ := row <;> rfl

/-- R129, R130: a toggle row is Toggle with the row's width. -/
theorem exec_toggleRow {i : Instr} {w : BitVec 3} (row : (i, w) ∈ toggleRows) (s : State) :
    exec i s = .next (toggleCmd w s) := by
  simp only [toggleRows, List.mem_cons, Prod.mk.injEq, List.not_mem_nil, or_false] at row
  obtain ⟨rfl, rfl⟩ | ⟨rfl, rfl⟩ := row <;> rfl

/-- R119 to R133: what a command row that answers has done, and that only EN4B and EX4B write a session register. -/
theorem exec_commandRow {s t : State} {i : Instr} (row : isCommandRow i = true) (h : exec i s = .next t) :
    CommandEffect s t ∧ (i ≠ .en4b → i ≠ .ex4b → t.ses = s.ses) := by
  cases i with
  | read => cases h; exact ⟨dataCmd_effect 0 s, fun _ _ => dataCmd_ses 0 s⟩
  | fastRead => cases h; exact ⟨dataCmd_effect 1 s, fun _ _ => dataCmd_ses 1 s⟩
  | quadRead => cases h; exact ⟨dataCmd_effect 2 s, fun _ _ => dataCmd_ses 2 s⟩
  | en4b => cases h; exact ⟨.toggled _ _ rfl rfl rfl rfl, fun other => absurd rfl other⟩
  | ex4b => cases h; exact ⟨.toggled _ _ rfl rfl rfl rfl, fun _ other => absurd rfl other⟩
  | control c => cases h; exact ⟨.noted s.free _ rfl rfl rfl, fun _ _ => rfl⟩
  | unrecognized c => cases h; exact ⟨.noted s.free _ rfl rfl rfl, fun _ _ => rfl⟩
  | _ => cases row

/-- The choice of fsm is not a command row's (R114). -/
theorem commandEffect_fsm {s t : State} (h : CommandEffect s t) : t.fsm = s.fsm := by
  cases h <;> rfl

/-- A record that a command row adds to the log is the one on the annotation port. -/
theorem commandEffect_ann {s t : State} (h : CommandEffect s t) :
    (t.io.aev = s.io.aev ∧ t.io.trace = s.io.trace) ∨ ∃ r, t.io.aev = some r ∧ t.io.trace = s.io.trace ++ [.ann r] := by
  cases h with
  | silent => exact .inl ⟨rfl, rfl⟩
  | noted _ r => exact .inr ⟨r, rfl, rfl⟩
  | toggled _ r => exact .inr ⟨r, rfl, rfl⟩

/-! ### A data command -/

/-- R127: the filter takes both of its bounds in. -/
theorem inFilter_iff {s : State} {a : Nat} :
    s.inFilter a = true ↔ s.cfg.minAddr.toNat ≤ a ∧ a ≤ s.cfg.maxAddr.toNat := by
  simp [State.inFilter]

/-- R123: without a whole address the record is the truncated one. -/
theorem dataCmd_truncated {s : State} (short : s.txn.mosiSeq.length < 1 + s.ses.aw.toNat) (o : Nat) :
    dataCmd o s = s.emitAnn (s.annotation .error .truncated s.txn.cmd none) :=
  if_pos short

/-- R127: with a whole address the filter on its value decides. -/
theorem dataCmd_whole {s : State} (whole : ¬s.txn.mosiSeq.length < 1 + s.ses.aw.toNat) (o : Nat) : dataCmd o s =
    if s.inFilter s.startAddr.1 then
      s.startAddr.2.emitAnn (s.annotation .dataCommand .dataCmd s.txn.cmd
        (some (dataRange s.txn.mosiSeq.length s.ses.aw.toNat o s.startAddr.1)))
    else s.startAddr.2 :=
  if_neg whole

section
variable {s : State} {e0 : Entry} {vs : List Byte} {rest : List Entry} {a : Nat}
  (seq : s.txn.mosiSeq = e0 :: (vs.map Entry.byte ++ rest)) (width : vs.length = s.ses.aw.toNat)
include seq width

theorem mosiSeq_length_of_bytes : s.txn.mosiSeq.length = 1 + s.ses.aw.toNat + rest.length := by
  simp only [seq, ← width, List.length_cons, List.length_append, List.length_map]
  omega

/-- R122 over an address of bytes: the filter alone decides, and no free value is drawn. -/
theorem dataCmd_of_bytes (value : a = bigEndian 0 vs) (o : Nat) : dataCmd o s =
    if s.inFilter a then
      s.emitAnn (s.annotation .dataCommand .dataCmd s.txn.cmd
        (some (dataRange s.txn.mosiSeq.length s.ses.aw.toNat o a)))
    else s := by
  have whole : ¬s.txn.mosiSeq.length < 1 + s.ses.aw.toNat := by
    rw [mosiSeq_length_of_bytes seq width]; omega
  rw [dataCmd_whole whole, startAddr_of_bytes seq width, value]

/-- R124, R125: the count is the number of entries behind the address, less the overhead. -/
theorem dataRange_of_bytes (o : Nat) : dataRange s.txn.mosiSeq.length s.ses.aw.toNat o a =
    { addrStart := BitVec.ofNat 32 a, count := (rest.length : Int) - o, addrEnd := (a : Int) + ((rest.length : Int) - o) - 1 } := by
  have count : dataCount s.txn.mosiSeq.length s.ses.aw.toNat o = (rest.length : Int) - o := by
    rw [mosiSeq_length_of_bytes seq width, dataCount]; push_cast; ring
  rw [dataRange, endAddr, count]

end

/-! ### The end of a window by its number of bytes (R113, R114) -/

theorem endTxn_interpreted {s : State} (bytes : 0 < s.txn.nclk) : endTxn s = settleFsm (interpret (closeWindow s)) :=
  congrArg settleFsm (if_pos bytes)

theorem endTxn_degenerate {s : State} (empty : ¬0 < s.txn.nclk) : endTxn s = settleFsm (closeWindow s) :=
  congrArg settleFsm (if_neg empty)

/-! ### What the interpretation does not read (R136): it commutes with a change of those registers -/

/-- The state with other buffers and another assembler. -/
def State.withUnread (mosi miso : List Entry) (la : Lane) (s : State) : State :=
  { s with txn := { s.txn with mosiSeq := mosi, misoSeq := miso }, la := la }

/-- R44: the loop over given entries reads no buffer and no assembler register. -/
theorem assembleAddr_withUnread (mosi miso : List Entry) (la : Lane) (es : List Entry) (a : Nat) (s : State) :
    assembleAddr es a (s.withUnread mosi miso la)
      = ((assembleAddr es a s).1, (assembleAddr es a s).2.withUnread mosi miso la) := by
  induction es generalizing a s with
  | nil => rfl
  | cons e es ih =>
    cases e with
    | byte v => exact ih _ s
    | empty => exact ih _ s.drawByte.2

section
variable {s : State} {mosi : List Entry} (miso : List Entry) (la : Lane)
  (length : mosi.length = s.txn.mosiSeq.length)
  (address : mosi.take (1 + s.ses.aw.toNat) = s.txn.mosiSeq.take (1 + s.ses.aw.toNat))

include address in
theorem startAddr_withUnread : (s.withUnread mosi miso la).startAddr
    = (s.startAddr.1, s.startAddr.2.withUnread mosi miso la) := by
  have entries : (mosi.drop 1).take s.ses.aw.toNat = (s.txn.mosiSeq.drop 1).take s.ses.aw.toNat := by
    rw [List.take_drop, address, ← List.take_drop]
  change assembleAddr ((mosi.drop 1).take s.ses.aw.toNat) 0 (s.withUnread mosi miso la) = _
  rw [entries, assembleAddr_withUnread]; rfl

include length address

theorem dataCmd_withUnread (o : Nat) : dataCmd o (s.withUnread mosi miso la) = (dataCmd o s).withUnread mosi miso la := by
  by_cases short : s.txn.mosiSeq.length < 1 + s.ses.aw.toNat
  · rw [dataCmd_truncated short, dataCmd_truncated (s := s.withUnread mosi miso la) (length ▸ short :)]; rfl
  · rw [dataCmd_whole short, dataCmd_whole (s := s.withUnread mosi miso la) (length ▸ short :),
      startAddr_withUnread miso la address, apply_ite (State.withUnread mosi miso la),
      show (s.withUnread mosi miso la).txn.mosiSeq.length = s.txn.mosiSeq.length from length]
    rfl

theorem interpret_withUnread : interpret (s.withUnread mosi miso la) = (interpret s).withUnread mosi miso la := by
  have kind : (s.withUnread mosi miso la).build.tables.kindOf (s.withUnread mosi miso la).txn.cmd
    = s.build.tables.kindOf s.txn.cmd := rfl
  unfold interpret
  rw [kind]
  cases s.build.tables.kindOf s.txn.cmd with
  | data d => exact dataCmd_withUnread miso la length address d.overhead
  | toggle g => rfl
  | control n => rfl
  | unrecognized => rfl

/-- R114: the end of the window clears the assembler but for bstart, so the two ends differ as the two states do. -/
theorem endTxn_withUnread : endTxn (s.withUnread mosi miso la)
    = (endTxn s).withUnread mosi miso (s.withUnread mosi miso la).clearPartial.la := by
  have closed : closeWindow (s.withUnread mosi miso la)
    = (closeWindow s).withUnread mosi miso (s.withUnread mosi miso la).clearPartial.la := rfl
  by_cases bytes : 0 < s.txn.nclk
  · rw [endTxn_interpreted bytes, endTxn_interpreted (s := s.withUnread mosi miso la) bytes, closed,
      interpret_withUnread (s := closeWindow s) miso _ length address]
    rfl
  · rw [endTxn_degenerate bytes, endTxn_degenerate (s := s.withUnread mosi miso la) bytes, closed]
    rfl

end

/-! ### The statements -/

/-- Settles O35: over an address of bytes the filter decides, and an address that it lets through is at most MAX_ADDR. -/
theorem dataCommandResult : Obligations.DataCommandResult := by
  rintro s i ovh e0 vs rest a n r row seq width value low high rfl rfl
  refine ⟨?_, lt_of_le_of_lt high s.cfg.maxAddr.isLt⟩
  rw [exec_dataRow row, dataCmd_of_bytes seq width value, if_pos (inFilter_iff.mpr ⟨low, high⟩)]; rfl

/-- Settles O38: the closed window has the same buffers, so its data command is the one over an address of bytes. -/
theorem dataWindowIsAnnotated : Obligations.DataWindowIsAnnotated := by
  intro s clk d e0 vs rest a bytes found seq width value low high
  have inside : (closeWindow s).inFilter a = true := inFilter_iff.mpr ⟨low, high⟩
  have ends := endTxn_interpreted bytes
  rw [interpret_data (s := closeWindow s) found, dataCmd_of_bytes (s := closeWindow s) seq width value,
    if_pos inside, dataRange_of_bytes (s := closeWindow s) seq width] at ends
  exact ⟨_, exec_evCsDeassert_of_settle clk ends rfl rfl rfl, rfl, rfl⟩

/-- Settles O42: every command row has one of the interpreter's effects, and each effect keeps the registers. -/
theorem commandFrame : Obligations.CommandFrame := by
  intro s t i row h
  obtain ⟨effect, session⟩ := exec_commandRow row h
  obtain ⟨cfg, build, cont, txn, la, ed, smp⟩ := commandEffect_frame effect
  obtain ⟨rc, bev, input⟩ := commandEffect_rc_ports effect
  refine ⟨cfg, build, txn, la, ed, commandEffect_fsm effect, rc, smp, bev, input, cont, ?_, ?_, commandEffect_ann effect⟩
  · exact fun notEn4b notEx4b => congrArg Session.aw (session notEn4b notEx4b)
  · exact fun k => ⟨by rw [State.mosiEntry, txn]; rfl, by rw [State.misoEntry, txn]; rfl⟩

/-- Settles O43: the two ends of the window differ in nothing but the buffers and the assembler. -/
theorem annotationReadsOnlyTheAddress : Obligations.AnnotationReadsOnlyTheAddress := by
  intro s t t' clk mosi miso la length address h h'
  change Host.Outcome.next (latchEdge (endTxn (s.withUnread mosi miso la))) = _ at h'
  rw [endTxn_withUnread miso la length address] at h'
  cases h
  cases h'
  exact ⟨rfl, rfl, rfl⟩

/-- Settles O36: truncation comes before the filter. -/
theorem truncatedDataCommand : Obligations.TruncatedDataCommand := by
  rintro s i ovh r row short rfl
  rw [exec_dataRow row, dataCmd_truncated short]; rfl

/-- Settles O37: outside the filter a data command over an address of bytes does nothing. -/
theorem filteredDataCommand : Obligations.FilteredDataCommand := by
  intro s i ovh e0 vs rest a row seq width value outside
  have suppressed : ¬s.inFilter a = true := by rw [inFilter_iff]; omega
  rw [exec_dataRow row, dataCmd_of_bytes seq width value, if_neg suppressed]

/-- Settles O40: the record is made before the width is written. -/
theorem toggleWritesTheWidthAfterTheRecord : Obligations.ToggleWritesTheWidthAfterTheRecord := by
  rintro s i w r row rfl
  exact exec_toggleRow row s

/-- Settles O41: each of the two rows is its record, emitted. -/
theorem controlAndUnrecognizedRecords : Obligations.ControlAndUnrecognizedRecords := by
  intro s c r record
  rw [record, record]
  exact ⟨rfl, rfl⟩

end Sys2Proof.Machine
end

section
/-! SUPPORT. The two output ports over a step (R139 to R142), and the environment's side of the interface (R148): what is
still to come stays in order as it is consumed, and no check of R157 to R159 fails on it. -/

namespace Sys2Proof.Machine

/-! ### A step that presents no sample -/

theorem step_of_done {s u : State} (h : fetch s = .done u) : step s = .next u := by
  rw [step, h]

/-! ### The records presented -/

/-- R95, R140: a record that a clock edge adds to the log is the one on the byte-record port. -/
theorem edgeEffect_bev {s u : State} (h : EdgeEffect s u) :
    (u.io.bev = s.io.bev ∧ u.io.trace = s.io.trace)
      ∨ ∃ r, u.io.bev = some r ∧ u.io.trace = s.io.trace ++ [.byte r] := by
  cases h with
  | high => exact .inl ⟨rfl, rfl⟩
  | low => exact .inr ⟨_, rfl, rfl⟩
  | check => exact .inr ⟨_, rfl, rfl⟩
  | shift => exact .inl (by simp)
  | byte => exact .inr ⟨_, rfl, rfl⟩
  | capture => rw [captureCommand_io]; exact .inr ⟨_, rfl, rfl⟩
  | free => exact .inl (by simp)

/-- R114, R141: a record that the end of a window adds to the log is the one on the annotation port. -/
theorem endTxn_aev (s : State) : ((endTxn s).io.aev = s.io.aev ∧ (endTxn s).io.trace = s.io.trace)
    ∨ ∃ r, (endTxn s).io.aev = some r ∧ (endTxn s).io.trace = s.io.trace ++ [.ann r] := by
  obtain ⟨-, h⟩ | ⟨-, h⟩ := endTxn_effect s
  · rw [h]; exact .inl ⟨rfl, rfl⟩
  · have presented := commandEffect_ann (interpret_effect (closeWindow s))
    rw [h]; exact presented

/-- R142: a class presents no record, a clock edge a byte record at most, and a deassertion an annotation at most. -/
theorem eventEffect_presents {s t : State} {i : Instr} (h : EventEffect s i t) :
    (t.io.bev = s.io.bev ∧ t.io.aev = s.io.aev ∧ t.io.trace = s.io.trace)
      ∨ (i = .evClk ∧ ∃ r, t.io.bev = some r ∧ t.io.aev = s.io.aev ∧ t.io.trace = s.io.trace ++ [.byte r])
      ∨ ((∃ x, i = .evCsDeassert x)
        ∧ ∃ r, t.io.bev = s.io.bev ∧ t.io.aev = some r ∧ t.io.trace = s.io.trace ++ [.ann r]) := by
  cases h with
  | eos => exact .inl ⟨rfl, rfl, rfl⟩
  | prime => exact .inl ⟨rfl, rfl, rfl⟩
  | assert => exact .inl (by simp)
  | deassert x =>
    obtain ⟨aev, trace⟩ | ⟨r, aev, trace⟩ := endTxn_aev s
    · exact .inl ⟨endTxn_bev s, aev, trace⟩
    · exact .inr (.inr ⟨⟨x, rfl⟩, r, endTxn_bev s, aev, trace⟩)
  | clk u _ _ _ _ _ _ _ edge =>
    obtain ⟨-, aev, -⟩ := edgeEffect_frame edge
    obtain ⟨bev, trace⟩ | ⟨r, bev, trace⟩ := edgeEffect_bev edge
    · exact .inl ⟨bev, aev, trace⟩
    · exact .inr (.inl ⟨rfl, r, bev, aev, trace⟩)
  | clkFault => exact .inl ⟨rfl, rfl, rfl⟩
  | none => exact .inl ⟨rfl, rfl, rfl⟩

/-! ### What is still to come -/

/-- The timestamp that the next one has to exceed (R157). -/
def State.latchedTs (s : State) : Option Nat := if s.ed.primed then some s.ed.lastTs else none

theorem latchedTs_latchEdge (s : State) : (latchEdge s).latchedTs = some s.io.smp.ts := rfl

section
variable {b : Build} {prev : Option Nat} {smp : Sample} {rest : List PortInput}

/-- The environment's side for a sample: the end of the stream, or a timestamp after the last one. -/
theorem inputKept_sample (h : inputKept b prev (.sample smp :: rest) = true) :
    (smp.eos = true ∧ inputKept b prev rest = true)
      ∨ (smp.eos = false ∧ (∀ p, prev = some p → p < smp.ts) ∧ inputKept b (some smp.ts) rest = true) := by
  cases eos : smp.eos with
  | true => exact .inl ⟨rfl, by simpa [inputKept, eos] using h⟩
  | false =>
    simp only [inputKept, eos, Bool.false_eq_true, ↓reduceIte, Bool.and_eq_true] at h
    obtain ⟨⟨later, -⟩, kept⟩ := h
    refine .inr ⟨rfl, fun p hp => ?_, kept⟩
    subst hp
    exact of_decide_eq_true later

theorem inputKept_reset {c : Configuration} (h : inputKept b prev (.reset c :: rest) = true) :
    configValid b c = true ∧ c.hasQuad = true ∧ inputKept b none rest = true := by
  simpa [inputKept, and_assoc] using h

/-- What is in order after a timestamp is in order after any earlier one, and without one. -/
theorem inputKept_mono {prev' : Option Nat} {input : List PortInput} (h : inputKept b prev input = true)
    (earlier : ∀ p, prev' = some p → ∃ q, prev = some q ∧ p ≤ q) : inputKept b prev' input = true := by
  induction input with
  | nil => rfl
  | cons item rest ih =>
    cases item with
    | noSample => exact ih h
    | reset c => exact h
    | sample smp =>
      unfold inputKept at h ⊢
      cases eos : smp.eos with
      | true =>
        rw [eos] at h
        exact ih h
      | false =>
        simp only [eos, Bool.false_eq_true, ↓reduceIte, Bool.and_eq_true] at h ⊢
        obtain ⟨⟨later, fits⟩, kept⟩ := h
        refine ⟨⟨?_, fits⟩, kept⟩
        cases prev' with
        | none => rfl
        | some p =>
          obtain ⟨q, rfl, le⟩ := earlier p rfl
          exact decide_eq_true (le.trans_lt (of_decide_eq_true later))

/-- A sample that is taken and not latched leaves the rest in order. -/
theorem inputKept_tail (h : inputKept b prev (.sample smp :: rest) = true) : inputKept b prev rest = true := by
  obtain ⟨-, kept⟩ | ⟨-, later, kept⟩ := inputKept_sample h
  · exact kept
  · exact inputKept_mono kept fun p hp => ⟨smp.ts, rfl, (later p hp).le⟩

end

/-! ### An undisturbed state -/

/-- A configuration that the check of R155 accepts resets to a state without a fault. -/
theorem resetWith_fault {b : Build} {c : Configuration} (h : configValid b c = true) :
    (State.resetWith b c).rc.fault = false := by
  simp [State.resetWith, h]

section
variable {s : State} (h : Undisturbed s)
include h

/-- R158, R159: with the quad lines present and unbounded counters no clock edge faults. -/
theorem Undisturbed.clockEdge_ne_error (c : FaultCause) : clockEdge s ≠ .error c := by
  intro fails
  have room : s.countOverflow = false := by simp [State.countOverflow, h.cntUnbounded, exceeds]
  obtain ⟨-, -, absent⟩ | ⟨-, past | ⟨full, -⟩⟩ := clockEdge_error fails
  · simp [h.lines] at absent
  · simp [h.posUnbounded, exceeds] at past
  · simp [room] at full

/-- A state that keeps the build, the configuration and fault needs an input that is in order. -/
theorem Undisturbed.kept {t : State} (cfg : t.cfg = s.cfg) (build : t.build = s.build) (rc : t.rc.fault = s.rc.fault)
    (input : inputKept s.build t.latchedTs t.io.input = true) : Undisturbed t where
  input := build ▸ input
  lines := cfg ▸ h.lines
  posUnbounded := build ▸ h.posUnbounded
  cntUnbounded := build ▸ h.cntUnbounded
  clean := rc ▸ h.clean

theorem Undisturbed.openStep {rest : List PortInput} (input : inputKept s.build s.latchedTs rest = true) :
    Undisturbed (s.openStep rest) :=
  h.kept rfl rfl rfl input

theorem Undisturbed.applyReset {c : Configuration} {rest : List PortInput} (hi : s.io.input = .reset c :: rest) :
    Undisturbed (applyReset c rest s) := by
  obtain ⟨valid, lines, input⟩ := inputKept_reset (hi ▸ h.input)
  exact ⟨input, lines, h.posUnbounded, h.cntUnbounded, resetWith_fault valid⟩

theorem Undisturbed.present {smp : Sample} {rest : List PortInput} (hn : s.nextSample smp rest) :
    Undisturbed (s.present smp rest) :=
  h.kept rfl rfl rfl (inputKept_tail (hn ▸ h.input :))

/-- R76: with the sample latched, what is still to come follows it. -/
theorem Undisturbed.latched {u : State} (following : inputKept s.build (some s.io.smp.ts) s.io.input = true)
    (cfg : u.cfg = s.cfg) (build : u.build = s.build) (rc : u.rc = s.rc) (smp : u.io.smp = s.io.smp)
    (input : u.io.input = s.io.input) : Undisturbed (latchEdge u) :=
  h.kept cfg build (congrArg RunControl.fault rc) (by
    rw [latchedTs_latchEdge, smp, latchEdge_io, input]; exact following)

/-- No event class faults, and each but EV_EOS latches its sample. -/
theorem Undisturbed.event {t : State} {i : Instr}
    (following : s.io.smp.eos = false → inputKept s.build (some s.io.smp.ts) s.io.input = true) (he : EventEffect s i t) :
    Undisturbed t := by
  cases he with
  | eos => exact h.kept rfl rfl rfl h.input
  | prime _ eos => exact h.latched (following eos) rfl rfl rfl rfl rfl
  | assert _ eos => exact h.latched (following eos) (by simp) (by simp) (by simp) (by simp) (by simp)
  | deassert _ eos => exact h.latched (following eos) (by simp) (by simp) (by simp) (by simp) (by simp)
  | clk u eos _ _ _ _ _ _ edge =>
    obtain ⟨rc, -, input⟩ := edgeEffect_frame edge
    exact h.latched (following eos) (edgeEffect_cfg edge :) (edgeEffect_build edge :) rc (edgeEffect_smp edge :) input
  | clkFault c _ _ _ fails => exact absurd fails (h.clockEdge_ne_error c)
  | none _ eos => exact h.latched (following eos) rfl rfl rfl rfl rfl

end

/-! ### The statements -/

/-- Settles O57: a reset brings an accepted configuration, a sample passes the check of R157 and runs a class that does not
fault, and what the step does not take stays in order. -/
theorem undisturbedRunsNeverFault : Obligations.UndisturbedRunsNeverFault := by
  intro s t h hstep
  obtain ⟨-, rfl⟩ | ⟨rest, hi, rfl⟩ | ⟨c, rest, hi, rfl⟩ | ⟨smp, rest, hn⟩ := step_cases hstep
  · exact h.openStep rfl
  · exact h.openStep (hi ▸ h.input :)
  · exact h.applyReset hi
  · have kept := inputKept_sample (hn ▸ h.input :)
    obtain ⟨-, rfl⟩ | ⟨-, -, eos, primed, notLater, -⟩ | ⟨-, i, -, he⟩ := step_sample hn hstep
    · exact h.present hn
    · obtain ⟨atEnd, -⟩ | ⟨-, later, -⟩ := kept
      · simp [eos] at atEnd
      · exact absurd (later s.ed.lastTs (if_pos primed)) (Nat.not_lt.mpr notLater)
    · refine (h.present hn).event (fun eos => ?_) he
      obtain ⟨atEnd, -⟩ | ⟨-, -, following⟩ := kept
      · exact nomatch atEnd.symm.trans eos
      · exact following

/-- Settles O47: a step on a sample starts with both ports empty, and of the event classes EV_CLK presents a byte record at
most, EV_CS_DEASSERT an annotation at most, and the others nothing. -/
theorem oneRecordPerStep : Obligations.OneRecordPerStep := by
  intro s t smp rest hn hstep
  obtain ⟨-, rfl⟩ | ⟨-, -, -, -, -, rfl⟩ | ⟨-, i, rfl, he⟩ := step_sample hn hstep
  · simp
  · simp
  · obtain ⟨bev, aev, trace⟩ | ⟨clk, r, bev, aev, trace⟩ | ⟨deassert, r, bev, aev, trace⟩ := eventEffect_presents he
    · simp [bev, aev, trace]
    · simp [bev, aev, trace, clk]
    · simp [bev, aev, trace, deassert]

/-- Settles O10: both cases end in the fetch. -/
theorem stepWithoutSampleChangesNothing : Obligations.StepWithoutSampleChangesNothing := by
  refine fun s rest => ⟨fun empty => ?_, fun noSample => ?_⟩
  · have h : fetch s = .done (s.openStep s.io.input) := by rw [fetch, empty]
    exact step_of_done h
  · have h : fetch s = .done (s.openStep rest) := by rw [fetch, noSample]
    exact step_of_done h

end Sys2Proof.Machine
end

section
/-! SUPPORT. Faults (R154 to R162): the check of R155 condition by condition, the faults that a sampling edge can raise and
when it raises them, and that an instruction writes fault in no other way. -/

namespace Sys2Proof.Machine

/-! ### The conditions of R155 -/

theorem legalWidth_iff {w : Nat} : legalWidth w = true ↔ w = 1 ∨ w = 2 ∨ w = 3 ∨ w = 4 := by
  simp only [legalWidth, Bool.and_eq_true, decide_eq_true_eq]
  omega

theorem legalWidth_toNat_iff : ∀ w : BitVec 3, legalWidth w.toNat = true ↔ w = 1#3 ∨ w = 2#3 ∨ w = 3#3 ∨ w = 4#3 := by
  decide

/-- A condition on the keys of a table, read from its entries or from its lookups. -/
theorem exists_entry_iff_exists_key {α : Type} {l : List (Byte × α)} {p : Byte → Prop} :
    (∃ e ∈ l, p e.1) ↔ ∃ k, (l.lookup k).isSome = true ∧ p k := by
  simp only [List.lookup_isSome_iff, beq_iff_eq]
  constructor
  · rintro ⟨e, he, hp⟩
    exact ⟨e.1, ⟨e, he, rfl⟩, hp⟩
  · rintro ⟨k, ⟨e, he, rfl⟩, hp⟩
    exact ⟨e, he, hp⟩

theorem tablesDisjoint_eq_false {t : Tables} : tablesDisjoint t = false ↔
    (∃ k, (t.data.lookup k).isSome ∧ (t.toggle.lookup k).isSome)
      ∨ (∃ k, (t.data.lookup k).isSome ∧ (t.ctrl.lookup k).isSome)
      ∨ ∃ k, (t.toggle.lookup k).isSome ∧ (t.ctrl.lookup k).isSome := by
  simp only [← exists_entry_iff_exists_key, tablesDisjoint, Bool.and_eq_false_iff, List.all_eq_false, Bool.not_eq_true,
    Option.isNone_eq_false_iff, and_or_left, exists_or, or_assoc]

theorem dataLanesValid_eq_false {t : Tables} : dataLanesValid t = false ↔
    (∃ e ∈ t.data, e.2.lane ≠ 1 ∧ e.2.lane ≠ 4) ∨ ∃ e ∈ t.data, e.2.lane = 4 ∧ t.quad.lookup e.1 = none := by
  simp only [dataLanesValid, List.all_eq_false, ← exists_or, ← and_or_left]
  refine exists_congr fun e => and_congr_right fun _ => ?_
  cases t.quad.lookup e.1 with
  | none =>
    simp only [Option.isSome_none, Bool.and_false, Bool.or_false, beq_iff_eq, and_true]
    omega
  | some n => simp

theorem quadEntriesValid_eq_false {t : Tables} : quadEntriesValid t = false ↔
    (∃ q ∈ t.quad, ¬∃ d, t.data.lookup q.1 = some d ∧ d.lane = 4)
      ∨ ∃ q ∈ t.quad, q.2 % 2 = 1 ∨ ∃ d, t.data.lookup q.1 = some d ∧ d.overhead ≠ q.2 / 2 := by
  simp only [quadEntriesValid, List.all_eq_false, ← exists_or, ← and_or_left]
  refine exists_congr fun q => and_congr_right fun _ => ?_
  cases t.data.lookup q.1 with
  | none => simp
  | some d => simp [imp_iff_not_or, or_assoc]

theorem toggleWidthsValid_eq_false {t : Tables} : toggleWidthsValid t = false ↔
    ∃ e ∈ t.toggle, ¬(e.2.newAw = 1 ∨ e.2.newAw = 2 ∨ e.2.newAw = 3 ∨ e.2.newAw = 4) := by
  simp only [toggleWidthsValid, List.all_eq_false, legalWidth_iff]

theorem configValid_eq_false {b : Build} {c : Configuration} : configValid b c = false ↔
    c.wordSize ≠ 8#8 ∨ ¬legalWidth c.awInit.toNat = true ∨ tablesDisjoint b.tables = false
      ∨ dataLanesValid b.tables = false ∨ quadEntriesValid b.tables = false ∨ toggleWidthsValid b.tables = false := by
  simp only [configValid, Bool.and_eq_false_iff, beq_eq_false_iff_ne, Bool.not_eq_true, or_assoc]

/-- R155, R166: the check decides the fault after reset. -/
theorem resetWith_refused_iff {b : Build} {c : Configuration} :
    ((State.resetWith b c).rc.fault = true ∧ (State.resetWith b c).rc.faultCode = 4#4) ↔ configValid b c = false := by
  cases valid : configValid b c <;> simp [State.resetWith, valid, FaultCause.code]

/-! ### The faults of a sampling edge (R158, R159) -/

/-- What a sampling edge can fault with, and why. -/
inductive EdgeFault (s : State) : FaultCause → Prop
  | lines (absent : s.cfg.hasQuad = false) : EdgeFault s (.quadLinesAbsent s.txn.pos)
  | position (past : ¬Fits s.build.widths.posW (s.txn.pos + 1)) : EdgeFault s (.counterOverflow s.txn.pos)
  | count (full : ¬s.ByteFits) : EdgeFault s (.counterOverflow s.txn.pos)

theorem exceeds_eq_true {w : Option Nat} {v : Nat} : exceeds w v = true ↔ ¬Fits w v := by
  rw [← exceeds_eq_false, Bool.not_eq_false]

theorem countOverflow_eq_true {s : State} : s.countOverflow = true ↔ ¬s.ByteFits := by
  rw [← countOverflow_eq_false, Bool.not_eq_false]

section
variable {s : State} {c : FaultCause}

theorem clockStep_error : clockStep s = .error c ↔ clockEdge s = .error c := by
  unfold clockStep
  cases clockEdge s <;> simp

theorem EdgeFault.of_singleEdge (h : singleEdge s = .error c) : EdgeFault s c := by
  obtain ⟨-, full, rfl⟩ := singleEdge_error h
  exact .count (countOverflow_eq_true.mp full)

theorem EdgeFault.of_quadHigh (h : quadHigh s = .error c) : EdgeFault s c := by
  cases lines : s.cfg.hasQuad with
  | false => cases (quadHigh_absent lines).symm.trans h; exact .lines lines
  | true => cases (quadHigh_present lines).symm.trans h

theorem EdgeFault.of_quadLow (h : quadLow s = .error c) : EdgeFault s c := by
  cases lines : s.cfg.hasQuad with
  | false => cases (quadLow_absent lines).symm.trans h; exact .lines lines
  | true =>
    cases full : s.countOverflow with
    | false => cases (quadLow_present lines full).symm.trans h
    | true => cases (quadLow_overflow lines full).symm.trans h; exact .count (countOverflow_eq_true.mp full)

theorem EdgeFault.of_clockEdge (h : clockEdge s = .error c) : EdgeFault s c := by
  obtain ⟨rfl, -, absent⟩ | ⟨rfl, past | ⟨full, -⟩⟩ := clockEdge_error h
  · exact .lines absent
  · exact .position (exceeds_eq_true.mp past)
  · exact .count (countOverflow_eq_true.mp full)

theorem EdgeFault.code_eq (h : EdgeFault s c) : c.code = 2#4 ∨ c.code = 3#4 := by
  cases h with
  | lines => exact .inl rfl
  | position => exact .inr rfl
  | count => exact .inr rfl

/-- R159: counters without a bound hold every value, so what is left is the absence of the quad lines. -/
theorem EdgeFault.code_of_unbounded (h : EdgeFault s c) (pos : s.build.widths.posW = none) (cnt : s.build.widths.cntW = none) :
    c.code = 2#4 := by
  cases h with
  | lines => rfl
  | position past => exact absurd (by simp [Fits, pos]) past
  | count full => exact absurd (by simp [State.ByteFits, Fits, cnt]) full

end

/-! ### What an instruction does to the fault registers (R156) -/

theorem stateOf_error {α : Type} {r : Except FaultCause (α × State)} {c : FaultCause} :
    stateOf r = .error c ↔ r = .error c := by
  cases r <;> simp [stateOf]

/-- Fault and fault_code as they were, or a fault of a sampling edge taken from the state before it. -/
def FaultEffect (s t : State) : Prop :=
  (t.rc.fault = s.rc.fault ∧ t.rc.faultCode = s.rc.faultCode) ∨ ∃ c, EdgeFault s c ∧ t = s.raiseFault c

theorem FaultEffect.of_rc {s t : State} (h : t.rc = s.rc) : FaultEffect s t := .inl (by simp [h])

theorem FaultEffect.of_commit {s t : State} {r : Except FaultCause State} (h : commit s r = .next t)
    (kept : r = .ok t → t.rc = s.rc) (fails : ∀ c, r = .error c → EdgeFault s c) : FaultEffect s t := by
  obtain ok | ⟨c, error, rfl⟩ := commit_eq_next.mp h
  · exact .of_rc (kept ok)
  · exact .inr ⟨c, fails c error, rfl⟩

/-- R156: of all instructions only the sampling edges write fault, and one that does writes nothing else. -/
theorem exec_faultEffect {s t : State} {i : Instr} (h : exec i s = .next t) : FaultEffect s t := by
  cases row : isCommandRow i with
  | true => exact .of_rc (commandEffect_rc_ports (exec_commandRow row h).1).1
  | false =>
    cases i with
    | evEos => cases h; exact .inl ⟨rfl, rfl⟩
    | evPrime => cases h; exact .of_rc rfl
    | evCsAssert => cases h; exact .of_rc (by simp)
    | beginFresh => cases h; exact .of_rc rfl
    | beginCont => cases h; exact .of_rc rfl
    | evCsDeassert => cases h; exact .of_rc (by simp)
    | evNone => cases h; exact .of_rc rfl
    | evClk =>
      refine .of_commit h (fun ok => ?_) fun c error => .of_clockEdge (clockStep_error.mp error)
      obtain ⟨u, edge, rfl⟩ := clockStep_ok ok
      exact (edgeEffect_frame edge).1
    | singleEdge =>
      refine .of_commit h (fun ok => ?_) fun c error => .of_singleEdge (stateOf_error.mp error)
      obtain ⟨a, ok⟩ := stateOf_ok.mp ok
      obtain ⟨-, eq⟩ | ⟨-, -, eq⟩ := singleEdge_ok ok
      · cases eq; exact singleShifted_rc s
      · cases eq; rfl
    | quadHigh =>
      refine .of_commit h (fun ok => ?_) fun c => .of_quadHigh
      obtain ⟨-, rfl⟩ := quadHigh_ok ok
      rfl
    | quadLow =>
      refine .of_commit h (fun ok => ?_) fun c error => .of_quadLow (stateOf_error.mp error)
      obtain ⟨a, ok⟩ := stateOf_ok.mp ok
      obtain ⟨-, -, eq⟩ := quadLow_ok ok
      cases eq; rfl
    | _ => cases row

/-! ### When a sampling edge faults -/

section
variable {s : State}

theorem exec_evClk_of_error {c : FaultCause} (h : clockEdge s = .error c) : exec .evClk s = .next (s.raiseFault c) := by
  change commit s (clockStep s) = _
  rw [clockStep_error.mpr h, commit_error]

theorem exec_quadHigh_absent (absent : s.cfg.hasQuad = false) :
    exec .quadHigh s = .next (s.raiseFault (.quadLinesAbsent s.txn.pos)) := by
  change commit s (quadHigh s) = _
  rw [quadHigh_absent absent, commit_error]

theorem exec_quadLow_absent (absent : s.cfg.hasQuad = false) :
    exec .quadLow s = .next (s.raiseFault (.quadLinesAbsent s.txn.pos)) := by
  change commit s (stateOf (quadLow s)) = _
  rw [quadLow_absent absent, stateOf, commit_error]

theorem exec_quadLow_overflow (lines : s.cfg.hasQuad = true) (full : ¬s.ByteFits) :
    exec .quadLow s = .next (s.raiseFault (.counterOverflow s.txn.pos)) := by
  change commit s (stateOf (quadLow s)) = _
  rw [quadLow_overflow lines (countOverflow_eq_true.mpr full), stateOf, commit_error]

theorem exec_singleEdge_overflow (last : s.la.sbits = 7#4) (full : ¬s.ByteFits) :
    exec .singleEdge s = .next (s.raiseFault (.counterOverflow s.txn.pos)) := by
  change commit s (stateOf (singleEdge s)) = _
  cases edge : singleEdge s with
  | ok r =>
    obtain ⟨more, -⟩ | ⟨-, room, -⟩ := singleEdge_ok edge
    · exact absurd last more
    · exact absurd (countOverflow_eq_false.mp room) full
  | error c =>
    obtain ⟨-, -, rfl⟩ := singleEdge_error edge
    rfl

/-- R158: on the QUAD path the lines are asked for before anything else. -/
theorem clockEdge_absent (path : s.onQuadPath = true) (absent : s.cfg.hasQuad = false) :
    clockEdge s = .error (.quadLinesAbsent s.txn.pos) := by
  have part : quadPart s = .error (.quadLinesAbsent s.txn.pos) := by
    unfold quadPart
    split
    · rw [quadLow_absent absent]
    · exact quadHigh_absent absent
  rw [clockEdge, if_pos path, part]

/-- R159: a clock edge that has the lines it needs and cannot have an effect ends in COUNTER_OVERFLOW. -/
theorem clockEdge_overflow (lines : s.cfg.hasQuad = true ∨ s.onQuadPath = false)
    (blocked : ∀ u, EdgeEffect s u → Fits s.build.widths.posW (s.txn.pos + 1) → False) :
    clockEdge s = .error (.counterOverflow s.txn.pos) := by
  cases edge : clockEdge s with
  | ok t =>
    obtain ⟨u, effect, fits, -⟩ := clockEdge_ok edge
    exact (blocked u effect (exceeds_eq_false.mp fits)).elim
  | error c =>
    obtain ⟨-, path, absent⟩ | ⟨rfl, -⟩ := clockEdge_error edge
    · simp [path, absent] at lines
    · rfl

/-- R95, R159: the edge that ends a byte has room for it. -/
theorem edgeEffect_room {u : State} (h : EdgeEffect s u)
    (ends : (s.onQuadPath = true ∧ s.la.qhalf = true) ∨ (s.onQuadPath = false ∧ s.la.sbits = 7#4)) : s.ByteFits := by
  cases h with
  | high path half => simp [path, half] at ends
  | low _ _ _ room => exact countOverflow_eq_false.mp room
  | check _ _ _ room => exact countOverflow_eq_false.mp room
  | shift path bits => simp [path, bits] at ends
  | byte _ _ room => exact countOverflow_eq_false.mp room
  | capture _ _ room => exact countOverflow_eq_false.mp room
  | free path bits => simp [path, bits] at ends

end

/-! ### The obligations -/

/-- Settles O12: each part of the check fails under its own conditions, and a refused block is a stopped one. -/
theorem configurationCheck : Obligations.ConfigurationCheck := by
  refine fun b c => ⟨?_, fun smp rest refused => ?_⟩
  · simp only [resetWith_refused_iff, configValid_eq_false, legalWidth_toNat_iff, tablesDisjoint_eq_false,
      dataLanesValid_eq_false, quadEntriesValid_eq_false, toggleWidthsValid_eq_false, or_assoc]
  · exact stoppedBlockIgnoresSamples _ smp rest rfl (.inl (resetWith_refused_iff.mpr refused).1)

/-- Settles O33: no effect of a clock edge fits the overflowing counter, so the edge ends in its fault. -/
theorem counterOverflowFaults : Obligations.CounterOverflowFaults := by
  rintro s t rfl
  rw [← onQuadPath_iff, Bool.not_eq_true]
  refine ⟨fun lines past => ?_, fun last full => ⟨exec_singleEdge_overflow last full, fun path => ?_⟩,
    fun lines full => ⟨exec_quadLow_overflow lines full, fun quad started half => ?_⟩⟩
  · exact exec_evClk_of_error (clockEdge_overflow lines fun _ _ => past)
  · exact exec_evClk_of_error (clockEdge_overflow (.inr path) fun _ effect _ =>
      full (edgeEffect_room effect (.inr ⟨path, last⟩)))
  · exact exec_evClk_of_error (clockEdge_overflow (.inl lines) fun _ effect _ =>
      full (edgeEffect_room effect (.inl ⟨onQuadPath_iff.mpr ⟨quad, started⟩, half⟩)))

/-- Settles O34: a fault that an instruction raises under unbounded counters has code 2. -/
theorem unboundedCountersNeverOverflow : Obligations.UnboundedCountersNeverOverflow := by
  intro s t i pos cnt h code
  obtain ⟨-, kept⟩ | ⟨c, fault, rfl⟩ := exec_faultEffect h
  · exact kept.symm.trans code
  · exact absurd ((fault.code_of_unbounded pos cnt).symm.trans code) (by decide)

/-- Settles O46: a sample raises the timestamp fault, or the fault of a sampling edge from the state with the sample on the
port. -/
theorem faultIsPrecise : Obligations.FaultIsPrecise := by
  intro s t smp rest hn hstep clean fault
  obtain ⟨-, rfl⟩ | ⟨-, -, -, -, -, rfl⟩ | ⟨processed, -⟩ := step_sample hn hstep
  · simp [clean] at fault
  · exact ⟨rfl, .inl rfl⟩
  · obtain ⟨kept, -⟩ | ⟨c, edge, rfl⟩ := exec_faultEffect ((step_processed hn processed).symm.trans hstep)
    · simp [kept, clean] at fault
    · exact ⟨rfl, .inr edge.code_eq⟩

/-- Settles O9: of what a sample can do only the timestamp fault is left. -/
theorem nonIncreasingTimestampFaults : Obligations.NonIncreasingTimestampFaults := by
  intro s smp rest hn clean running eos primed notLater
  obtain ⟨t, ht⟩ := nothingStopsTheMachine.2 s
  obtain ⟨stopped, -⟩ | ⟨-, -, -, -, -, rfl⟩ | ⟨⟨-, -, accepted⟩, -⟩ := step_sample hn ht
  · simp [clean, running] at stopped
  · exact ht
  · simp [eos, primed, notLater.not_gt] at accepted

/-- Settles O28: both quad edges ask for the lines first, and EV_CLK on the QUAD path runs one of them. -/
theorem absentQuadLinesFault : Obligations.AbsentQuadLinesFault := by
  rintro s t absent rfl
  exact ⟨exec_quadHigh_absent absent, exec_quadLow_absent absent, fun quad started =>
    exec_evClk_of_error (clockEdge_absent (onQuadPath_iff.mpr ⟨quad, started⟩) absent)⟩

end Sys2Proof.Machine
end

section
/-! SUPPORT. Reset (R166 to R169) and the registers that it leaves unspecified: two states that differ in such registers alone,
where no rule reads them, run every event class alike. In a proof below, `{ h with }` says that no register that
`h : Unread s w` speaks of has been written since `s`. -/

namespace Sys2Proof.Machine

/-! ### Other values for the unspecified registers -/

/-- Values for the registers that R166 leaves unspecified (log 1). -/
structure Unspecified where
  cmd : Byte
  qs : BitVec 4
  startTs : Nat
  endTs : Nat
  bstart : Nat
  csaPrev : Bool
  sPrev : Bool
  lastTs : Nat

/-- The values that a state has there. -/
def State.unspecified (s : State) : Unspecified :=
  ⟨s.txn.cmd, s.txn.qs, s.txn.startTs, s.txn.endTs, s.la.bstart, s.ed.csaPrev, s.ed.sPrev, s.ed.lastTs⟩

/-- The state with other values there. -/
def State.overwrite (w : Unspecified) (s : State) : State :=
  { s with
    txn := { s.txn with cmd := w.cmd, qs := w.qs, startTs := w.startTs, endTs := w.endTs }
    la := { s.la with bstart := w.bstart }
    ed := { s.ed with csaPrev := w.csaPrev, sPrev := w.sPrev, lastTs := w.lastTs } }

/-- The values differ from those of the state only in registers that no rule reads as the state stands: end_ts always, and
each other register where `State.readable` shows zero for it. -/
structure Unread (s : State) (w : Unspecified) : Prop where
  cmd : s.txn.cmdValid = true → w.cmd = s.txn.cmd
  qs : s.txn.quadEn = true → w.qs = s.txn.qs
  start : s.fsm.isOpen = true → w.startTs = s.txn.startTs
  bstart : s.la.sbits ≠ 0#4 ∨ s.la.qhalf = true → w.bstart = s.la.bstart
  edge : s.ed.primed = true → w.csaPrev = s.ed.csaPrev ∧ w.sPrev = s.ed.sPrev ∧ w.lastTs = s.ed.lastTs

/-- The values that the readable part shows there: zero for a register that no rule reads. -/
def State.shown (s : State) : Unspecified where
  cmd := if s.txn.cmdValid then s.txn.cmd else 0#8
  qs := if s.txn.quadEn then s.txn.qs else 0#4
  startTs := if s.fsm.isOpen then s.txn.startTs else 0
  endTs := 0
  bstart := if s.la.sbits = 0#4 ∧ s.la.qhalf = false then 0 else s.la.bstart
  csaPrev := s.ed.primed && s.ed.csaPrev
  sPrev := s.ed.primed && s.ed.sPrev
  lastTs := if s.ed.primed then s.ed.lastTs else 0

/-- The readable part of R166 in terms of the values that it shows. -/
theorem readable_eq_overwrite_shown (s : State) : s.readable =
    { s.overwrite s.shown with io := { s.io with smp := { ts := 0, eos := false, lines := 0#6 } } } := rfl

theorem Unread.shown {s : State} {w : Unspecified} (h : Unread s w) : (s.overwrite w).shown = s.shown := by
  obtain ⟨cmd, qs, start, bstart, edge⟩ := h
  have held (part : ¬(s.la.sbits = 0#4 ∧ s.la.qhalf = false)) : w.bstart = s.la.bstart :=
    bstart (by simpa [imp_iff_not_or] using part)
  have levels : (s.ed.primed && w.csaPrev) = (s.ed.primed && s.ed.csaPrev)
      ∧ (s.ed.primed && w.sPrev) = (s.ed.primed && s.ed.sPrev) := by
    cases primed : s.ed.primed <;> simp [edge, primed]
  exact (Unspecified.mk.injEq ..).mpr ⟨ite_congr rfl cmd fun _ => rfl, ite_congr rfl qs fun _ => rfl,
    ite_congr rfl start fun _ => rfl, rfl, ite_congr rfl (fun _ => rfl) held, levels.1, levels.2,
    ite_congr rfl (fun primed => (edge primed).2.2) fun _ => rfl⟩

/-- Overwriting registers that no rule reads leaves the readable part. -/
theorem Unread.readable {s : State} {w : Unspecified} (h : Unread s w) : (s.overwrite w).readable = s.readable := by
  rw [readable_eq_overwrite_shown, h.shown]; rfl

theorem Unread.of_shown {s : State} {w : Unspecified} (same : (s.overwrite w).shown = s.shown) : Unread s w := by
  obtain ⟨cmd, qs, start, -, bstart, csa, clk, ts⟩ := (Unspecified.mk.injEq ..).mp same
  exact {
    cmd := fun h => by simpa [State.overwrite, h] using cmd
    qs := fun h => by simpa [State.overwrite, h] using qs
    start := fun h => by simpa [State.overwrite, h] using start
    bstart := fun h => by obtain h | h := h <;> simpa [State.overwrite, h] using bstart
    edge := fun h => by simpa [State.overwrite, h] using And.intro csa (And.intro clk ts) }

/-- Of two states with the same readable part, the one has values that are unread in the other. -/
theorem unread_of_readable_eq {s s' : State} (same : s.readable = s'.readable) : Unread s s'.unspecified :=
  .of_shown <| calc (s.overwrite s'.unspecified).shown
    _ = s'.shown := congrArg (fun r => (r.overwrite s'.unspecified).shown) same
    _ = s.shown := congrArg State.unspecified same.symm

/-- Two states with the same readable part differ in the unspecified registers at most, once a sample is on the port. -/
theorem present_of_readable_eq {s s' : State} (same : s.readable = s'.readable) (smp : Sample) (rest : List PortInput) :
    s'.present smp rest = (s.present smp rest).overwrite s'.unspecified :=
  congrArg (fun r => (r.present smp rest).overwrite s'.unspecified) same.symm

theorem Unread.symm {s : State} {w : Unspecified} (h : Unread s w) : Unread (s.overwrite w) s.unspecified where
  cmd valid := (h.cmd valid).symm
  qs quad := (h.qs quad).symm
  start opened := (h.start opened).symm
  bstart held := (h.bstart held).symm
  edge primed := by
    obtain ⟨csa, clk, ts⟩ := h.edge primed
    exact ⟨csa.symm, clk.symm, ts.symm⟩

/-! ### The operations of a class -/

section
variable {s : State} {w : Unspecified} (h : Unread s w)
include h

/-- R76: the end of a class writes the edge registers. -/
theorem Unread.latched : ∃ w', Unread (latchEdge s) w' ∧ latchEdge (s.overwrite w) = (latchEdge s).overwrite w' :=
  ⟨{ w with csaPrev := s.csaNow, sPrev := s.sNow, lastTs := s.io.smp.ts },
    { h with edge := fun _ => ⟨rfl, rfl, rfl⟩ }, rfl⟩

/-- R102: a fresh window has its start, and neither a command nor a byte under assembly. -/
theorem Unread.begun_fresh : ∃ w', Unread (beginFresh s) w' ∧ beginFresh (s.overwrite w) = (beginFresh s).overwrite w' :=
  ⟨{ w with startTs := s.io.smp.ts },
    { cmd := nofun, qs := nofun, start := fun _ => rfl, bstart := by simp [beginFresh], edge := h.edge }, rfl⟩

/-- R103: a continuation takes up a command that is valid. -/
theorem Unread.begun_cont (valid : s.txn.cmdValid = true) :
    ∃ w', Unread (beginCont s) w' ∧ beginCont (s.overwrite w) = (beginCont s).overwrite w' := by
  refine ⟨{ w with startTs := s.io.smp.ts },
    { h with start := fun _ => rfl, bstart := by simp [beginCont] }, ?_⟩
  have cmd : (s.overwrite w).txn.cmd = s.txn.cmd := h.cmd valid
  rw [beginCont, cmd]; rfl

/-- R60: qs is read only where quad_en is set. -/
theorem Unread.onQuadPath : (s.overwrite w).onQuadPath = s.onQuadPath := by
  cases quad : s.txn.quadEn with
  | false => simp [State.onQuadPath, State.overwrite, quad]
  | true => simp [State.onQuadPath, State.overwrite, h.qs quad]

/-- R106, R107: the capture writes cmd, and qs together with quad_en. -/
theorem Unread.captured (opened : s.fsm.isOpen = true) (m : Byte) :
    ∃ w', Unread (captureCommand m s) w' ∧ captureCommand m (s.overwrite w) = (captureCommand m s).overwrite w' := by
  simp only [captureCommand_eq]
  refine ⟨{ w with cmd := m, qs := if (s.build.tables.quad.lookup m).isSome then Config.quadStart else w.qs },
    { cmd := fun _ => rfl, qs := ?_, start := fun _ => h.start opened, bstart := h.bstart, edge := h.edge }, rfl⟩
  cases found : (s.build.tables.quad.lookup m).isSome with
  | true => exact fun _ => rfl
  | false => exact h.qs

/-- R88: the first edge of a byte writes bstart, and a later one keeps it. -/
theorem Unread.shifted :
    ∃ w', Unread (singleShifted s) w' ∧ singleShifted (s.overwrite w) = (singleShifted s).overwrite w' := by
  simp only [singleShifted_eq]
  refine ⟨{ w with bstart := if s.la.sbits = 0#4 then s.io.smp.ts else w.bstart }, { h with bstart := fun _ => ?_ }, rfl⟩
  exact ite_congr rfl (fun _ => rfl) fun first => h.bstart (.inl first)

/-- R95, R111: a byte under assembly has its start, and a byte behind the first a command. -/
theorem Unread.byteState_eq (held : s.la.sbits ≠ 0#4 ∨ s.la.qhalf = true)
    (known : s.txn.mosiSeq = [] ∨ s.txn.cmdValid = true) (em es : Entry) (p : AsmPath) :
    byteState em es p (s.overwrite w) = (byteState em es p s).overwrite w := by
  have start : (s.overwrite w).la.bstart = s.la.bstart := h.bstart held
  have phase : (s.overwrite w).phaseOf s.txn.mosiSeq.length = s.phaseOf s.txn.mosiSeq.length := by
    obtain first | valid := known
    · rw [first]; rfl
    · have cmd : (s.overwrite w).txn.cmd = s.txn.cmd := h.cmd valid
      rw [State.phaseOf, cmd]; rfl
  have record : (s.overwrite w).byteRecord em es p = s.byteRecord em es p := by
    unfold State.byteRecord
    rw [start]
    exact congrArg (fun phase => ByteRecord.mk _ _ _ _ _ _ phase) phase
  unfold byteState
  rw [record]; rfl

/-- R92: QUAD_LOW ends a byte under assembly. -/
theorem Unread.quad_completed (half : s.la.qhalf = true) (known : s.txn.mosiSeq = [] ∨ s.txn.cmdValid = true) :
    Unread (quadCompleted s) w ∧ quadCompleted (s.overwrite w) = (quadCompleted s).overwrite w :=
  ⟨{ h with bstart := fun _ => h.bstart (.inr half) },
    congrArg (fun u => { u with la := { u.la with qhi := 0x0#4, qhalf := false } })
      (h.byteState_eq (.inr half) known _ _ .quad)⟩

/-- R89: the eighth edge ends a byte under assembly. -/
theorem Unread.single_completed (last : s.la.sbits = 7#4) (known : s.txn.mosiSeq = [] ∨ s.txn.cmdValid = true) :
    Unread (singleCompleted s) w ∧ singleCompleted (s.overwrite w) = (singleCompleted s).overwrite w := by
  have held : s.la.sbits ≠ 0#4 ∨ s.la.qhalf = true := .inl (by simp [last])
  exact ⟨{ h with bstart := fun _ => h.bstart held },
    congrArg (State.setSingle 0x00#8 0x00#8 0#4) (h.byteState_eq held known _ _ .single)⟩

/-- R105: a clock edge has the same effect, up to registers that no rule reads. -/
theorem Unread.edge_effect (opened : s.fsm.isOpen = true) (known : s.txn.mosiSeq = [] ∨ s.txn.cmdValid = true)
    {u : State} (edge : EdgeEffect s u) : ∃ w', Unread u w' ∧ EdgeEffect (s.overwrite w) (u.overwrite w') := by
  have path_eq := h.onQuadPath
  cases edge with
  | high path half lines =>
    exact ⟨{ w with bstart := s.io.smp.ts }, { h with bstart := fun _ => rfl },
      .high (path_eq.trans path) half lines⟩
  | low path half lines room noCheck =>
    obtain ⟨unread, same⟩ := h.quad_completed half known
    exact ⟨w, unread, same ▸ .low (path_eq.trans path) half lines room noCheck⟩
  | check path half lines room dummy at15 =>
    obtain ⟨unread, same⟩ := h.quad_completed half known
    have checked : contCheck (quadLowByte s) (quadCompleted (s.overwrite w))
        = (contCheck (quadLowByte s) (quadCompleted s)).overwrite w := congrArg (contCheck (quadLowByte s)) same
    exact ⟨w, { unread with }, checked ▸ .check (path_eq.trans path) half lines room dummy at15⟩
  | shift path bits noCapture =>
    obtain ⟨w', unread, same⟩ := h.shifted
    exact ⟨w', unread, same ▸ .shift (path_eq.trans path) bits noCapture⟩
  | byte path bits room noCapture =>
    obtain ⟨unread, same⟩ := h.single_completed bits known
    exact ⟨w, unread, same ▸ .byte (path_eq.trans path) bits room noCapture⟩
  | capture path bits room at7 fresh =>
    obtain ⟨unread, same⟩ := h.single_completed bits known
    obtain ⟨w', unread, captured⟩ := unread.captured opened (mosiShift s)
    rw [← same] at captured
    exact ⟨w', unread, captured ▸ .capture (path_eq.trans path) bits room at7 fresh⟩
  | free path bits at7 fresh =>
    obtain ⟨w', unread, same⟩ := h.shifted
    have drawn : (singleShifted (s.overwrite w)).drawByte
        = ((singleShifted s).drawByte.1, (singleShifted s).drawByte.2.overwrite w') := congrArg State.drawByte same
    obtain ⟨w'', unread, captured⟩ := Unread.captured (s := (singleShifted s).drawByte.2) { unread with }
      ((congrArg Fsm.isOpen (singleShifted_fsm s)).trans opened) (singleShifted s).drawByte.1
    have edge := EdgeEffect.free (s := s.overwrite w) (path_eq.trans path) bits at7 fresh
    rw [drawn, captured] at edge
    exact ⟨w'', unread, edge⟩

/-- R158, R159: a clock edge faults alike, since it has an effect alike. -/
theorem Unread.edge_error (opened : s.fsm.isOpen = true) (known : s.txn.mosiSeq = [] ∨ s.txn.cmdValid = true)
    {c : FaultCause} (fails : clockEdge s = .error c) : clockEdge (s.overwrite w) = .error c := by
  by_cases absent : s.onQuadPath = true ∧ s.cfg.hasQuad = false
  · rw [← fails, clockEdge_absent absent.1 absent.2]
    exact clockEdge_absent (s := s.overwrite w) (h.onQuadPath.trans absent.1) absent.2
  · obtain ⟨-, path, lines⟩ | ⟨rfl, -⟩ := clockEdge_error fails
    · exact absurd ⟨path, lines⟩ absent
    · have lines : s.cfg.hasQuad = true ∨ s.onQuadPath = false := by simpa [imp_iff_not_or, or_comm] using absent
      rw [← h.onQuadPath] at lines
      refine clockEdge_overflow (s := s.overwrite w) lines fun u edge fits => ?_
      obtain ⟨w', -, effect⟩ := h.symm.edge_effect opened known edge
      cases fails.symm.trans (clockEdge_of_effect (s := s) effect fits)

end

/-! ### The end of a window -/

/-- R44: the loop over given entries reads none of these registers. -/
theorem assembleAddr_overwrite (w : Unspecified) (es : List Entry) (a : Nat) (s : State) :
    assembleAddr es a (s.overwrite w) = ((assembleAddr es a s).1, (assembleAddr es a s).2.overwrite w) := by
  induction es generalizing a s with
  | nil => rfl
  | cons e es ih =>
    cases e with
    | byte v => exact ih _ s
    | empty => exact ih _ s.drawByte.2

/-- The values with those of the state where the interpreter reads it: cmd and the two timestamps of the window. -/
def Unspecified.inWindow (w : Unspecified) (s : State) : Unspecified :=
  { w with cmd := s.txn.cmd, startTs := s.txn.startTs, endTs := s.txn.endTs }

/-- R122 to R127: of these registers a data command reads those of the window alone. -/
theorem dataCmd_inWindow (w : Unspecified) (o : Nat) (s : State) :
    dataCmd o (s.overwrite (w.inWindow s)) = (dataCmd o s).overwrite (w.inWindow s) := by
  have address : (s.overwrite (w.inWindow s)).startAddr = (s.startAddr.1, s.startAddr.2.overwrite (w.inWindow s)) :=
    assembleAddr_overwrite _ _ 0 s
  by_cases short : s.txn.mosiSeq.length < 1 + s.ses.aw.toNat
  · rw [dataCmd_truncated short, dataCmd_truncated (s := s.overwrite _) short]; rfl
  · rw [dataCmd_whole short, dataCmd_whole (s := s.overwrite _) short, address, apply_ite (State.overwrite _)]; rfl

/-- R134: so does every other command. -/
theorem interpret_inWindow (w : Unspecified) (s : State) :
    interpret (s.overwrite (w.inWindow s)) = (interpret s).overwrite (w.inWindow s) := by
  have kind : (s.overwrite (w.inWindow s)).build.tables.kindOf (s.overwrite (w.inWindow s)).txn.cmd
    = s.build.tables.kindOf s.txn.cmd := rfl
  unfold interpret
  rw [kind]
  cases s.build.tables.kindOf s.txn.cmd with
  | data d => exact dataCmd_inWindow w d.overhead s
  | toggle g => rfl
  | control n => rfl
  | unrecognized => rfl

@[simp] theorem endTxn_ed (s : State) : (endTxn s).ed = s.ed := by
  obtain ⟨u, h, -, -, -, -, -, ed, -⟩ := endTxn_eq_settleFsm s; rw [h]; exact ed

/-- R114: a window that is interpreted has its start and its command, and EndTxn writes its end. -/
theorem Unread.ended {s : State} {w : Unspecified} (h : Unread s w) (opened : s.fsm.isOpen = true)
    (known : 0 < s.txn.nclk → s.txn.cmdValid = true) :
    ∃ w', Unread (endTxn s) w' ∧ endTxn (s.overwrite w) = (endTxn s).overwrite w' := by
  refine ⟨{ w with endTs := s.io.smp.ts },
    ⟨by simpa using h.cmd, by simpa using h.qs, ?closed, by simp, by simpa using h.edge⟩, ?same⟩
  case closed => cases cont : s.ses.cont <;> simp [cont, Fsm.isOpen]
  case same =>
    by_cases bytes : 0 < s.txn.nclk
    · have window : { w with endTs := s.io.smp.ts } = w.inWindow (closeWindow s) :=
        (Unspecified.mk.injEq ..).mpr ⟨h.cmd (known bytes), rfl, h.start opened, rfl, rfl, rfl, rfl, rfl⟩
      have closed : closeWindow (s.overwrite w) = (closeWindow s).overwrite { w with endTs := s.io.smp.ts } := rfl
      rw [endTxn_interpreted bytes, endTxn_interpreted (s := s.overwrite w) bytes, closed, window, interpret_inWindow]
      rfl
    · rw [endTxn_degenerate bytes, endTxn_degenerate (s := s.overwrite w) bytes]; rfl

/-! ### A step -/

/-- R58: once primed, the edge detector forms the same vector. -/
theorem Unread.eventVector {s : State} {w : Unspecified} (h : Unread s w) (primed : s.ed.primed = true) :
    (s.overwrite w).eventVector = s.eventVector := by
  obtain ⟨csa, clk, -⟩ := h.edge primed
  have levels : (s.overwrite w).ed.csaPrev = s.ed.csaPrev ∧ (s.overwrite w).ed.sPrev = s.ed.sPrev := ⟨csa, clk⟩
  rw [State.eventVector, levels.1, levels.2]; rfl

/-- R106: an open window has no byte yet, or has its command. -/
theorem Consistent.command_known {s : State} (h : Consistent s) (opened : s.fsm.isOpen = true) :
    (s.txn.mosiSeq = [] ∧ s.txn.nclk = 0) ∨ s.txn.cmdValid = true := by
  obtain inCommand | inData := opened_iff.mp opened
  · exact .inl ⟨(h.command inCommand).noMosi, (h.command inCommand).noBytes⟩
  · exact .inr (h.data inData).captured

/-- R80: only a valid command is resumed. -/
theorem Unread.begun {s : State} {w : Unspecified} (h : Unread s w) (valid : s.ses.cont = true → s.txn.cmdValid = true) :
    ∃ w', Unread (beginTxn s) w' ∧ beginTxn (s.overwrite w) = (beginTxn s).overwrite w' := by
  unfold beginTxn
  cases cont : s.ses.cont with
  | false => simpa [State.overwrite, cont] using h.begun_fresh
  | true => simpa [State.overwrite, cont] using h.begun_cont (valid cont)

/-- R76: a processed sample runs the same class to the same effect, up to registers that no rule reads. Before the edge
detector is primed the two vectors can differ, in the operand of EV_EOS and of EV_PRIME alone. -/
theorem Unread.event {s t : State} {w : Unspecified} {i : Instr} (h : Unread s w) (inv : Consistent s)
    (he : EventEffect s i t) (class_eq : decodeVector s.eventVector = i) :
    ∃ w', Unread t w' ∧ exec (decodeVector (s.overwrite w).eventVector) (s.overwrite w) = .next (t.overwrite w') := by
  obtain ⟨eosClass, primeClass, -⟩ := eventClassesByPriority (s.overwrite w).eventVector
  have same (primed : s.ed.primed = true) : decodeVector (s.overwrite w).eventVector = i := by
    rw [h.eventVector primed, class_eq]
  cases he with
  | eos x eos =>
    obtain ⟨x', same⟩ := eosClass ((eventVector_6 _).trans eos)
    exact ⟨w, { h with }, by rw [same]; rfl⟩
  | prime x eos primed =>
    obtain ⟨x', same⟩ := primeClass ((eventVector_6 _).trans eos) ((eventVector_5 _).trans primed)
    obtain ⟨w', unread, latched⟩ := h.latched
    exact ⟨w', unread, by rw [same, ← latched]; rfl⟩
  | assert x eos primed =>
    obtain ⟨w₁, unread, begun⟩ := h.begun fun cont => (inv.quad (inv.cont cont).1).2
    obtain ⟨w₂, unread, latched⟩ := unread.latched
    exact ⟨w₂, unread, by rw [same primed, ← latched, ← begun]; rfl⟩
  | deassert x eos primed opened =>
    obtain ⟨w₁, unread, ended⟩ := h.ended opened fun bytes => by
      obtain ⟨-, noBytes⟩ | valid := inv.command_known opened
      · omega
      · exact valid
    obtain ⟨w₂, unread, latched⟩ := unread.latched
    exact ⟨w₂, unread, by rw [same primed, ← latched, ← ended]; rfl⟩
  | clk u eos primed opened _ _ _ _ edge fits =>
    obtain ⟨w₁, unread, edge⟩ := h.edge_effect opened ((inv.command_known opened).imp_left And.left) edge
    obtain ⟨w₂, unread, latched⟩ := Unread.latched (s := u.setPos (s.txn.pos + 1)) { unread with }
    refine ⟨w₂, unread, ?_⟩
    rw [same primed, ← latched]
    change commit (s.overwrite w) (clockStep (s.overwrite w)) = _
    rw [clockStep, clockEdge_of_effect edge (exceeds_eq_false.mp fits)]; rfl
  | clkFault c eos primed opened fails =>
    refine ⟨w, { h with }, ?_⟩
    rw [same primed]
    exact exec_evClk_of_error (h.edge_error opened ((inv.command_known opened).imp_left And.left) fails)
  | none ev eos primed =>
    obtain ⟨w', unread, latched⟩ := h.latched
    exact ⟨w', unread, by rw [same primed, ← latched]; rfl⟩

/-- R157: last_ts is read only once the edge detector is primed. -/
theorem Unread.processes {s : State} {w : Unspecified} (h : Unread s w) {smp : Sample} (processed : s.processes smp) :
    (s.overwrite w).processes smp := by
  obtain ⟨clean, running, accepted⟩ := processed
  refine ⟨clean, running, accepted.imp_right fun later => ?_⟩
  cases primed : s.ed.primed with
  | false => exact .inl primed
  | true =>
    obtain ⟨-, -, ts⟩ := h.edge primed
    exact .inr (ts.trans_lt (by simpa [primed] using later))

/-- R161: a sample meets the same checks and the same class, up to registers that no rule reads. -/
theorem Unread.sample {s s' t : State} {w : Unspecified} {smp : Sample} {rest : List PortInput}
    (h : Unread (s.present smp rest) w) (shown : s'.present smp rest = (s.present smp rest).overwrite w) (inv : Inv s)
    (hn : s.nextSample smp rest) (hn' : s'.nextSample smp rest) (hstep : Steps s t) :
    ∃ w', Unread t w' ∧ Steps s' (t.overwrite w') := by
  have rc : s'.rc = s.rc := congrArg (·.rc) shown
  obtain ⟨stopped, rfl⟩ | ⟨clean, running, eos, primed, notLater, rfl⟩ | ⟨processed, i, class_eq, he⟩ := step_sample hn hstep
  · refine ⟨w, h, ?_⟩
    rw [← shown]
    exact stoppedBlockIgnoresSamples s' smp rest hn' (rc ▸ stopped)
  · obtain ⟨-, -, ts⟩ := h.edge primed
    have primed' : s'.ed.primed = true := (congrArg (·.ed.primed) shown).trans primed
    have lastTs : s'.ed.lastTs = s.ed.lastTs := (congrArg (·.ed.lastTs) shown).trans ts
    have raised : State.overwrite w ((s.present smp rest).raiseFault (.nonmonotonicTs smp.ts))
        = (s'.present smp rest).raiseFault (.nonmonotonicTs smp.ts) := congrArg (State.raiseFault _) shown.symm
    refine ⟨w, { h with }, ?_⟩
    rw [raised]
    exact nonIncreasingTimestampFaults s' smp rest hn' (rc ▸ clean) (rc ▸ running) eos primed' (lastTs ▸ notLater)
  · obtain ⟨w', unread, run⟩ := h.event ((inv processed.1).present smp rest) he class_eq
    have processed' : s'.processes smp := (congrArg (·.processes smp) shown).mpr (h.processes processed)
    refine ⟨w', unread, ?_⟩
    rw [Steps, step_processed hn' processed', shown]
    exact run

/-! ### The obligations -/

/-- Settles O13: the fetch of a reset is the reset state with the rest of the input. -/
theorem resetDuringARun : Obligations.ResetDuringARun := by
  intro s c rest hi
  have h : fetch s = .done (applyReset c rest s) := by rw [fetch, hi]
  exact step_of_done h

/-- Settles O59: a step that takes no sample reads nothing but the readable part, and a sample does the same to two states
whose other registers are unread. -/
theorem unspecifiedRegistersAreNeverRead : Obligations.UnspecifiedRegistersAreNeverRead := by
  intro s s' t t' inv _ same hstep hstep'
  have build : s.build = s'.build := congrArg (·.build) same
  have input : s.io.input = s'.io.input := congrArg (·.io.input) same
  obtain ⟨hi, rfl⟩ | ⟨rest, hi, rfl⟩ | ⟨c, rest, hi, rfl⟩ | ⟨smp, rest, hn⟩ := step_cases hstep
  · cases (step_of_done (by rw [fetch, ← input, hi])).symm.trans hstep'
    exact congrArg (State.openStep []) same
  · cases (step_of_done (by rw [fetch, ← input, hi])).symm.trans hstep'
    exact congrArg (State.openStep rest) same
  · cases (resetDuringARun s' c rest (input ▸ hi)).symm.trans hstep'
    rw [applyReset, build]; rfl
  · have hn' : s'.nextSample smp rest := input.symm.trans hn
    obtain ⟨w, unread, next⟩ :=
      Unread.sample { unread_of_readable_eq same with } (present_of_readable_eq same smp rest) inv hn hn' hstep
    cases next.symm.trans hstep'
    exact unread.readable.symm

/-- Settles O11: each value is the one that `State.resetWith` writes. -/
theorem resetValues : Obligations.ResetValues := fun _ _ =>
  ⟨rfl, rfl, rfl, rfl, rfl, rfl, rfl, rfl, rfl, rfl, rfl, rfl, rfl, rfl, rfl, rfl, rfl, rfl, rfl⟩

end Sys2Proof.Machine
end
